-- ==== Sys2Proof/Word.lean ====
section
/-! DEFINITION. The word types of the bridge (00_scope.md R9, D2, D3) and the packing of one flag into a byte. -/

namespace Sys2Proof

/-- A byte, bit 7 the most significant (R9). -/
abbrev Byte := BitVec 8

/-- A memory address: `ADDR_WIDTH` = 16 bits (R8, D2). -/
abbrev Addr := BitVec 16

/-- A port number: `PORT_WIDTH` = 8 bits (R8, D3). -/
abbrev Port := BitVec 8

/-- A file name: a byte sequence compared byte by byte (R12, D43). -/
abbrev Name := List Byte

end Sys2Proof
end

