-- ==== Sys2Proof/Syntax.lean ====
section
/-! DEFINITION. The instructions of the bridge: one constructor of `Instr` per row of the opcode table
(30_encoding.md R70 to R75), with the smaller types each decode format selects from. -/

namespace Sys2Proof

/-- The tick's sample of the processor's lines, `S = (mreq, iorq, rd, wr, addr, data_in)` (R25, R92). -/
structure Sample where
  mreq   : Bool
  iorq   : Bool
  rd     : Bool
  wr     : Bool
  addr   : Addr
  dataIn : Byte
deriving DecidableEq, Repr, Inhabited

/-- The four decode formats (R70). -/
inductive Format where
  | bus
  | port
  | cmd
  | blk
deriving DecidableEq, Repr

/-- The read roles of the port map (R73), and the unmapped read (R102). -/
inductive PortIn where
  | conStatus
  | conData
  | diskStatus
  | diskData
  | diskBlock
  | unmapped
deriving DecidableEq, Repr

/-- The write roles of the port map (R73), and the unmapped write (R102). -/
inductive PortOut where
  | conCtrl
  | conData
  | diskCmd
  | diskData
  | diskFname
  | seekLo
  | seekMid
  | seekHi
  | dmaLo
  | dmaHi
  | diskBlock
  | unmapped
deriving DecidableEq, Repr

/-- The eight commands, and the reserved bytes (R74). -/
inductive Cmd where
  | openRead
  | create
  | openAppend
  | seekToStart
  | close
  | listDirectory
  | openReadwrite
  | seek
  | reserved
deriving DecidableEq, Repr

/-- The two block operations, and the reserved bytes (R75). -/
inductive Blk where
  | read
  | write
  | reserved
deriving DecidableEq, Repr

/-- The instructions. A BUS row carries the sampled operands its rule reads. A PORT row is an IoRead or an IoWrite
whose port has been resolved, a CMD row a write to the command port, a BLK row a write to the block port (R6). -/
inductive Instr where
  -- BUS (R71)
  | memoryRead (addr : Addr)
  | memoryWrite (addr : Addr) (data : Byte)
  | idleMemNostrobe
  | idleNorequest
  | idleIoNostrobe
  | ioRead (addr : Addr)
  | ioWrite (addr : Addr) (data : Byte)
  | ioReadHold
  | ioWriteHold
  -- PORT (R73, R102)
  | outDiskCmd (v : Byte)
  | inDiskStatus
  | inDiskData
  | outDiskData (v : Byte)
  | outDiskFname (v : Byte)
  | outSeekLo (v : Byte)
  | outSeekMid (v : Byte)
  | outSeekHi (v : Byte)
  | outDmaLo (v : Byte)
  | outDmaHi (v : Byte)
  | outDiskBlock (v : Byte)
  | inDiskBlock
  | outConCtrl (v : Byte)
  | inConStatus
  | inConData
  | outConData (v : Byte)
  | inUnmapped (p : Port)
  | outUnmapped (p : Port) (v : Byte)
  -- CMD (R74)
  | openRead
  | create
  | openAppend
  | seekToStart
  | close
  | listDirectory
  | openReadwrite
  | seek
  | cmdReserved (v : Byte)
  -- BLK (R75)
  | blockRead
  | blockWrite
  | blkReserved (v : Byte)
deriving DecidableEq, Repr

/-- The PORT row of a read role. -/
def PortIn.toInstr (p : Port) : PortIn → Instr
  | .conStatus  => .inConStatus
  | .conData    => .inConData
  | .diskStatus => .inDiskStatus
  | .diskData   => .inDiskData
  | .diskBlock  => .inDiskBlock
  | .unmapped   => .inUnmapped p

/-- The PORT row of a write role with the byte written. -/
def PortOut.toInstr (p : Port) (v : Byte) : PortOut → Instr
  | .conCtrl   => .outConCtrl v
  | .conData   => .outConData v
  | .diskCmd   => .outDiskCmd v
  | .diskData  => .outDiskData v
  | .diskFname => .outDiskFname v
  | .seekLo    => .outSeekLo v
  | .seekMid   => .outSeekMid v
  | .seekHi    => .outSeekHi v
  | .dmaLo     => .outDmaLo v
  | .dmaHi     => .outDmaHi v
  | .diskBlock => .outDiskBlock v
  | .unmapped  => .outUnmapped p v

/-- The CMD row of a command with the byte written. -/
def Cmd.toInstr (v : Byte) : Cmd → Instr
  | .openRead      => .openRead
  | .create        => .create
  | .openAppend    => .openAppend
  | .seekToStart   => .seekToStart
  | .close         => .close
  | .listDirectory => .listDirectory
  | .openReadwrite => .openReadwrite
  | .seek          => .seek
  | .reserved      => .cmdReserved v

/-- The BLK row of a block operation with the byte written. -/
def Blk.toInstr (v : Byte) : Blk → Instr
  | .read     => .blockRead
  | .write    => .blockWrite
  | .reserved => .blkReserved v

end Sys2Proof
end

