-- ==== Sys2Proof/Config.lean ====
section
/-! DEFINITION. What an implementation fixes (00_scope.md R8) and the values the spec leaves free. -/

namespace Sys2Proof

/-- `EOF_READ_ADVANCE` (R8, D28): how far a short block read moves the file position. -/
inductive EofAdvance where
  | quantum
  | actual
deriving DecidableEq, Repr

/-- The parameters of R8 that are no width and that the source does not settle, with `QUANTUM`. The
machine's are a field of its state that nothing writes (log 1). -/
structure Params where
  quantum        : Nat
  portDiskCmd    : Port
  portDiskStatus : Port
  portDiskData   : Port
  portDiskFname  : Port
  portSeekLo     : Port
  portSeekMid    : Port
  portSeekHi     : Port
  portDmaLo      : Port
  portDmaHi      : Port
  portDiskBlock  : Port
  portConCtrl    : Port
  portConStatus  : Port
  portConData    : Port
  cmdOpenRead      : Byte
  cmdCreate        : Byte
  cmdOpenAppend    : Byte
  cmdSeekToStart   : Byte
  cmdClose         : Byte
  cmdListDirectory : Byte
  cmdOpenReadwrite : Byte
  cmdSeek          : Byte
  blockFail : Byte
  dstatReady : Fin 8
  dstatError : Fin 8
  dstatData  : Fin 8
  cctlRie : Fin 8
  cctlRts : Fin 8
  cctlTie : Fin 8
  cstatRdrf  : Fin 8
  cstatTdre  : Fin 8
  cstatFixed : Byte
  unmappedRead  : Byte
  diskDataEmpty : Byte
  fnameMax : Nat
  /-- `LINE_TERM` is a non-empty sequence (R8): its first byte, and the rest. -/
  lineTermHead : Byte
  lineTermTail : List Byte
  firmwareName : Name
  ioReadHoldDrive : Bool
  eofReadAdvance  : EofAdvance
  modeStrict      : Bool
deriving DecidableEq, Repr

/-- `MEM_SIZE` = 2^`ADDR_WIDTH` (R8, D2). -/
def Config.memSize : Nat := 65536

/-- `BLK_READ`, stated by the source (R8, R75). -/
def Config.blkRead : Byte := 0x00#8

/-- `BLK_WRITE`, stated by the source (R8, R75). -/
def Config.blkWrite : Byte := 0x01#8

/-- `BLOCK_OK`, stated by the source (R8, R79). -/
def Config.blockOk : Byte := 0x00#8

/-- `LINE_TERM`, the OPEN byte sequence that ends a directory entry (D31): its first byte (log 2). -/
opaque Config.lineTermHead : Byte

/-- `LINE_TERM` after its first byte (log 2). -/
opaque Config.lineTermTail : List Byte

/-- `FIRMWARE_NAME`, the OPEN name of the firmware image (D34; log 2). -/
opaque Config.firmwareName : Name

/-- What a byte of the Memory Array holds when nothing has written it since the given power-on (U1; log 3). -/
opaque Config.powerOnByte : Nat → Nat → Byte

/-- What the filesystem collaborator answers during one tick (R12): the one `fs_fault()` draw of the tick, the draw
`removed` of a failed CREATE (R143), and the order `fs_list()` chooses. -/
structure Draws where
  fsFault : Bool
  removed : Bool
  listing : List Name
deriving DecidableEq, Repr, Inhabited

/-- What the environment gives one step: a power cycle or none (R184), `fs_init_ok` (R12, read by the boot stage alone),
the bytes that arrived in `con_in` since the last step (R11), the sample (R92) and the collaborator's answers. -/
structure Input where
  systemReset : Bool
  fsInitOk    : Bool
  arriving    : List Byte
  sample      : Sample
  draws       : Draws
deriving DecidableEq, Repr, Inhabited

/-- The input of a step that none is scheduled for: the environment's choice, under no law (R4, R10; log 4). -/
opaque Config.freeInput : Nat → Input

/-- The values of the table of R8, with the two OPEN parameters left open. -/
def Params.reference : Params where
  quantum        := 128
  portDiskCmd    := 0x10#8
  portDiskStatus := 0x11#8
  portDiskData   := 0x12#8
  portDiskFname  := 0x13#8
  portSeekLo     := 0x14#8
  portSeekMid    := 0x15#8
  portSeekHi     := 0x19#8
  portDmaLo      := 0x16#8
  portDmaHi      := 0x17#8
  portDiskBlock  := 0x18#8
  portConCtrl    := 0x80#8
  portConStatus  := 0x80#8
  portConData    := 0x81#8
  cmdOpenRead      := 0x01#8
  cmdCreate        := 0x02#8
  cmdOpenAppend    := 0x03#8
  cmdSeekToStart   := 0x04#8
  cmdClose         := 0x05#8
  cmdListDirectory := 0x06#8
  cmdOpenReadwrite := 0x07#8
  cmdSeek          := 0x08#8
  blockFail := 0x01#8
  dstatReady := 0
  dstatError := 1
  dstatData  := 7
  cctlRie := 7
  cctlRts := 6
  cctlTie := 5
  cstatRdrf  := 0
  cstatTdre  := 1
  cstatFixed := 0x00#8
  unmappedRead  := 0xFF#8
  diskDataEmpty := 0x00#8
  fnameMax := 12
  lineTermHead := Config.lineTermHead
  lineTermTail := Config.lineTermTail
  firmwareName := Config.firmwareName
  ioReadHoldDrive := true
  eofReadAdvance  := .quantum
  modeStrict      := true

/-- `LINE_TERM` as one sequence. -/
def Params.lineTerm (c : Params) : List Byte := c.lineTermHead :: c.lineTermTail

/-- The ports with a read role (R73). -/
def Params.readPorts (c : Params) : List Port :=
  [c.portConStatus, c.portConData, c.portDiskStatus, c.portDiskData, c.portDiskBlock]

/-- The ports with a write role (R73). -/
def Params.writePorts (c : Params) : List Port :=
  [c.portConCtrl, c.portConData, c.portDiskCmd, c.portDiskData, c.portDiskFname, c.portSeekLo, c.portSeekMid,
    c.portSeekHi, c.portDmaLo, c.portDmaHi, c.portDiskBlock]

/-- The eight command codes (R74). -/
def Params.cmdCodes (c : Params) : List Byte :=
  [c.cmdOpenRead, c.cmdCreate, c.cmdOpenAppend, c.cmdSeekToStart, c.cmdClose, c.cmdListDirectory,
    c.cmdOpenReadwrite, c.cmdSeek]

/-- What the spec asks of a choice of parameters: one number per role and direction (R73, D4), distinct codes (D5),
distinct status bits (D6, D7, D8), a failure code that is not the success code (R79), a name of at least one byte
(R82), and a quantum that is not empty and fits the Memory Array (R8). -/
def Params.valid (c : Params) : Bool :=
  decide c.readPorts.Nodup && decide c.writePorts.Nodup && decide c.cmdCodes.Nodup
    && c.blockFail != Config.blockOk
    && decide [c.dstatReady, c.dstatError, c.dstatData].Nodup
    && decide [c.cctlRie, c.cctlRts, c.cctlTie].Nodup
    && c.cstatRdrf != c.cstatTdre
    && decide (1 ≤ c.fnameMax) && decide (1 ≤ c.quantum) && decide (c.quantum ≤ Config.memSize)

end Sys2Proof
end

