-- ==== Sys2Proof/Machine/State.lean ====
section
/-! DEFINITION. The state of the bridge and of the environment its rules read (10_state.md R20 to R45), the state at
power-on, and the reasons a step can stop. -/

namespace Sys2Proof.Machine

/-- `phase` (R21). -/
inductive Phase where
  | boot
  | run
  | halt
deriving DecidableEq, Repr

/-- The access mode of a handle (R32). -/
inductive AccessMode where
  | r
  | w
  | rw
deriving DecidableEq, Repr

/-- The open file (R32); its bytes are those `files` holds under `name`. -/
structure Handle where
  name : Name
  mode : AccessMode
  pos  : Nat
deriving DecidableEq, Repr

/-- The open directory listing (R33). `cur` is never empty, so it is held as its first byte and the others. -/
structure Cursor where
  curHead : Byte
  curTail : List Byte
  rest    : List Name
deriving DecidableEq, Repr

/-- ConsoleRegisters (R27 to R29). -/
structure Console where
  ctrl    : Byte
  rxReady : Bool
  tdre    : Bool
  rxData  : Byte
  txData  : Byte
deriving DecidableEq, Repr

/-- The stored part of the DiskSession (R30 to R37). -/
structure DiskSession where
  lastCmd        : Byte
  fname          : List Byte
  fnameCommitted : Bool
  file           : Option Handle
  dir            : Option Cursor
  seekHi         : Byte
  seekMid        : Byte
  seekLo         : Byte
  dmaHi          : Byte
  dmaLo          : Byte
  blkResult      : Byte
  error          : Bool
deriving DecidableEq, Repr

/-- The bytes written to the Memory Array since power-on (R26), by rising address (`Memory.wf`; log 3). -/
abbrev Memory := List Host.Cell

/-- The collaborator's finite map from names to contents (R42), by rising name (`Files.wf`; log 19). -/
abbrev Files := List (Name × List Byte)

/-- The whole state. The first group is the bridge's, the second the environment's that the rules read (R41, R42), the third
the model's own: the parameters, the inputs still to come, two counters, the answers for the tick in progress, and the byte
the last tick drove (log 1, 3, 4, 16). -/
structure State where
  phase     : Phase
  prevIorq  : Bool
  ioLatch   : Option Byte
  clk       : Bool
  resetLine : Bool
  intLine   : Bool
  dataDrive : Option Byte
  mem       : Memory
  con       : Console
  disk      : DiskSession
  conIn     : List Byte
  conOut    : List Byte
  files     : Files
  cfg       : Params
  inputs    : List Input
  ticks     : Nat
  powerOns  : Nat
  draws     : Draws
  driven    : Option Byte
deriving DecidableEq, Repr

/-- Why a step stops the machine. -/
inductive Fault where
  /-- Raised by `step` in phase `Halt` when no power cycle comes: the fatal boot error has occurred and "no tick ever runs"
  (R181; log 10). Safe: the bridge does nothing there either. -/
  | halted
deriving DecidableEq, Repr

/-- What the model does not run. -/
inductive Refusal where
  /-- Raised by an arm of `exec` whose instruction has no meaning yet; no arm raises it. Safe. -/
  | notModelled (mnemonic : String)
  /-- Raised by the boot stage for a firmware image longer than the Memory Array: "a model refuses `T > MEM_SIZE`" (R180,
  D34, U15; log 11). Safe. -/
  | imageTooLong
deriving DecidableEq, Repr

/-- ConsoleRegisters when created (R44; log 8). -/
def Console.created : Console where
  ctrl := 0x00#8
  rxReady := false
  tdre := true
  rxData := 0x00#8
  txData := 0x00#8

/-- The DiskSession when created (R44). -/
def DiskSession.created : DiskSession where
  lastCmd := 0x00#8
  fname := []
  fnameCommitted := false
  file := none
  dir := none
  seekHi := 0x00#8
  seekMid := 0x00#8
  seekLo := 0x00#8
  dmaHi := 0x00#8
  dmaLo := 0x00#8
  blkResult := 0x00#8
  error := false

/-- Power-on: phase `Boot` with the lines of R180 and the registers of R44, nothing written to the Memory Array. The
environment's streams and store are empty (log 7), the model's own fields as log 1, 3, 4 and 16 say. -/
def State.reset : State where
  phase := .boot
  prevIorq := false
  ioLatch := none
  clk := false
  resetLine := true
  intLine := false
  dataDrive := none
  mem := []
  con := .created
  disk := .created
  conIn := []
  conOut := []
  files := []
  cfg := Params.reference
  inputs := []
  ticks := 0
  powerOns := 0
  draws := { fsFault := false, removed := false, listing := [] }
  driven := none

/-! Named updates of one field, so that lemmas about them (Laws/State.lean) serve every later proof. -/

def State.withMem (s : State) (m : Memory) : State := { s with mem := m }
def State.withCon (s : State) (c : Console) : State := { s with con := c }
def State.withDisk (s : State) (d : DiskSession) : State := { s with disk := d }
def State.withFiles (s : State) (f : Files) : State := { s with files := f }
def State.withConIn (s : State) (l : List Byte) : State := { s with conIn := l }
def State.withConOut (s : State) (l : List Byte) : State := { s with conOut := l }
def State.withDrive (s : State) (b : Option Byte) : State := { s with dataDrive := b }
def State.withLatch (s : State) (b : Option Byte) : State := { s with ioLatch := b }

end Sys2Proof.Machine
end

