-- ==== Sys2Proof/Machine/Memory.lean ====
section
/-! DEFINITION. The Memory Array Adapter (20_memory.md R51, R52): one byte read, one byte written, and runs of bytes at
ascending addresses that wrap (R53). -/

namespace Sys2Proof.Machine

/-- The byte written at an address since power-on, if any. -/
def Memory.get? : Memory → Nat → Option Byte
  | [], _ => none
  | (k, b) :: m, a => if k = a then some b else Memory.get? m a

/-- Record the byte written at an address, in its place by rising address. -/
def Memory.set : Memory → Nat → Byte → Memory
  | [], a, v => [(a, v)]
  | (k, b) :: m, a, v =>
      if a < k then (a, v) :: (k, b) :: m
      else if a = k then (a, v) :: m
      else (k, b) :: Memory.set m a v

/-- The canonical form: addresses strictly rising and inside the Memory Array. An address that is not listed holds no byte
of its own, so no entry can equal it (log 3). -/
def Memory.wf : Memory → Bool
  | [] => true
  | [(k, _)] => decide (k < Config.memSize)
  | (k, _) :: (k', b') :: m => decide (k < k') && Memory.wf ((k', b') :: m)

/-- `MemWrite(a + i, 1, l[i])` for every `i`, ascending; addresses wrap modulo `MEM_SIZE` (R51, R52, R53). -/
def Memory.setMany : Memory → Nat → List Byte → Memory
  | m, _, [] => m
  | m, a, b :: l => Memory.setMany (Memory.set m (a % Config.memSize) b) (a + 1) l

/-- `MemRead(a, 1)` = `mem[a mod MEM_SIZE]` (R10, R51). A byte nothing has written since power-on is free (U1; log 3). -/
def memRead (s : State) (a : Nat) : Byte :=
  match s.mem.get? (a % Config.memSize) with
  | some b => b
  | none => Config.powerOnByte s.powerOns (a % Config.memSize)

/-- `MemWrite(a, 1, v)` (R10, R51). -/
def memWrite (s : State) (a : Nat) (v : Byte) : State :=
  s.withMem (s.mem.set (a % Config.memSize) v)

/-- `MemWrite` of a run of bytes at ascending addresses. -/
def memWriteMany (s : State) (a : Nat) (l : List Byte) : State :=
  s.withMem (s.mem.setMany a l)

/-- `MemRead` of `n` bytes at ascending addresses. -/
def memReadMany (s : State) (a n : Nat) : List Byte :=
  (List.range n).map (fun i => memRead s (a + i))

end Sys2Proof.Machine
end

