-- ==== Sys2Proof/Machine/Store.lean ====
section
/-! DEFINITION. The filesystem collaborator's primitives over `files` (00_scope.md R12, 10_state.md R42). -/

namespace Sys2Proof.Machine

/-- Byte-wise order of names, a representation only: it fixes where an entry stands in the list (log 19). -/
def nameLt : Name → Name → Bool
  | _, [] => false
  | [], _ :: _ => true
  | a :: n, b :: n' => decide (a.toNat < b.toNat) || (a == b && nameLt n n')

/-- The contents of a file, if it exists. -/
def Files.find? : Files → Name → Option (List Byte)
  | [], _ => none
  | (k, d) :: f, n => if k = n then some d else Files.find? f n

/-- `files[n] <- d`. -/
def Files.put : Files → Name → List Byte → Files
  | [], n, d => [(n, d)]
  | (k, e) :: f, n, d =>
      if nameLt n k then (n, d) :: (k, e) :: f
      else if n = k then (n, d) :: f
      else (k, e) :: Files.put f n d

/-- `n` leaves `dom(files)`. -/
def Files.remove : Files → Name → Files
  | [], _ => []
  | (k, e) :: f, n => if k = n then f else (k, e) :: Files.remove f n

/-- `dom(files)`. -/
def Files.names (f : Files) : List Name := f.map Prod.fst

/-- The canonical form: names not empty (R42) and strictly rising. -/
def Files.wf : Files → Bool
  | [] => true
  | [(k, _)] => !k.isEmpty
  | (k, _) :: (k', d') :: f => !k.isEmpty && nameLt k k' && Files.wf ((k', d') :: f)

/-- `fs_exists(n)` (R12). -/
def fsExists (s : State) (n : Name) : Bool := (s.files.find? n).isSome

/-- `files[n]`. No reachable handle names a missing file (D42); one that did would find it empty (log 13). -/
def fsContents (s : State) (n : Name) : List Byte := (s.files.find? n).getD []

/-- `fs_len(n)` (R12). -/
def fsLen (s : State) (n : Name) : Nat := (fsContents s n).length

/-- `fs_read(n, pos, k)` (R12). -/
def fsRead (s : State) (n : Name) (pos k : Nat) : List Byte := ((fsContents s n).drop pos).take k

/-- The contents `d` after `bytes` are written at `pos`: first extended with zero bytes to length `pos` if shorter, then
replaced or appended (R12, D29). -/
def spliceAt (d : List Byte) (pos : Nat) (bytes : List Byte) : List Byte :=
  let padded := d ++ List.replicate (pos - d.length) 0#8
  padded.take pos ++ bytes ++ padded.drop (pos + bytes.length)

/-- `fs_write(n, pos, bytes)` (R12). -/
def fsWrite (s : State) (n : Name) (pos : Nat) (bytes : List Byte) : State :=
  s.withFiles (s.files.put n (spliceAt (fsContents s n) pos bytes))

/-- `fs_remove(n)` (R12). -/
def fsRemove (s : State) (n : Name) : State := s.withFiles (s.files.remove n)

/-- `fs_create_empty(n)` (R12). -/
def fsCreateEmpty (s : State) (n : Name) : State := s.withFiles (s.files.put n [])

/-- `fs_flush(n)` (R12): no effect on `files`, its failure is the operation's one `fs_fault()` draw. -/
def fsFlush (s : State) (_ : Name) : State := s

/-- The two names a listing never delivers (R147). -/
def isDotName (n : Name) : Bool := n == [0x2E#8] || n == [0x2E#8, 0x2E#8]

/-- The entries of a listing: `"."` and `".."` are left out, the order is kept (R147). -/
def listable (l : List Name) : List Name := l.filter (fun n => !isDotName n)

/-- What `fs_list()` may answer (R12): every name of `dom(files)` exactly once in any order, with the names `"."` and `".."`
added anywhere or not. -/
def listingAllowed (f : Files) (l : List Name) : Bool :=
  (listable l).isPerm (listable f.names) && f.names.all (fun n => l.contains n)

/-- `fs_list()` (R12, U17): the order drawn for this tick. A draw that is no order of `dom(files)` stands for the order of
`files` itself (log 5). -/
def fsList (s : State) : List Name :=
  if listingAllowed s.files s.draws.listing then s.draws.listing else s.files.names

end Sys2Proof.Machine
end

