-- ==== Sys2Proof/Machine/Flags.lean ====
section
/-! DEFINITION. Flags and the bytes that pack them (10_state.md R27, R28, R37; 30_encoding.md R76 to R79). -/

namespace Sys2Proof.Machine

/-- One flag at its bit of a byte; `true` is 1 (R9). -/
def flagBit (pos : Fin 8) (b : Bool) : Byte := if b then 1#8 <<< pos.val else 0#8

/-- `rie`: the receive-interrupt enable (R27, R77). -/
def rie (s : State) : Bool := s.con.ctrl.getLsbD s.cfg.cctlRie.val

/-- `rts`: the request-to-send state, read by no rule (R27, R77). -/
def rts (s : State) : Bool := s.con.ctrl.getLsbD s.cfg.cctlRts.val

/-- `tie`: the transmit-interrupt enable, read by no rule (R27, R77). -/
def tie (s : State) : Bool := s.con.ctrl.getLsbD s.cfg.cctlTie.val

/-- `Console.input_available()` (R11). -/
def inputAvailable (s : State) : Bool := !s.conIn.isEmpty

/-- `ready` = NOT `error` (R37, D17). -/
def ready (s : State) : Bool := !s.disk.error

/-- A mode in {R, RW}. -/
def AccessMode.readable : AccessMode → Bool
  | .r => true
  | .w => false
  | .rw => true

/-- A mode in {W, RW}. -/
def AccessMode.writable : AccessMode → Bool
  | .r => false
  | .w => true
  | .rw => true

/-- A readable handle with bytes left (R37, R128). -/
def handleHasData (s : State) (h : Handle) : Bool := h.mode.readable && decide (h.pos < fsLen s h.name)

/-- `data_available` (R37, D27). -/
def dataAvailable (s : State) : Bool := s.disk.dir.isSome || s.disk.file.any (handleHasData s)

/-- The disk status byte (R76, R120). -/
def diskStatusByte (s : State) : Byte :=
  flagBit s.cfg.dstatData (dataAvailable s) ||| flagBit s.cfg.dstatError s.disk.error
    ||| flagBit s.cfg.dstatReady (ready s)

/-- The console status byte (R78, R111): the fixed bits stand where the two flags do not (log 22). -/
def conStatusByte (s : State) : Byte :=
  (s.cfg.cstatFixed &&& ~~~(flagBit s.cfg.cstatRdrf true ||| flagBit s.cfg.cstatTdre true))
    ||| flagBit s.cfg.cstatTdre s.con.tdre ||| flagBit s.cfg.cstatRdrf s.con.rxReady

end Sys2Proof.Machine
end

