-- ==== Sys2Proof/Machine/Operands.lean ====
section
/-! DEFINITION. Operands assembled from several writes (30_encoding.md R80 to R83). The port operand of an I/O cycle is
`portOf` (Decode.lean, R72). -/

namespace Sys2Proof.Machine

/-- `seek` = `seek_hi : seek_mid : seek_lo` (R34, R80). -/
def seekPosition (d : DiskSession) : BitVec 24 := d.seekHi ++ d.seekMid ++ d.seekLo

/-- `dma` = `dma_hi : dma_lo` (R35, R81). -/
def dmaAddress (d : DiskSession) : Addr := d.dmaHi ++ d.dmaLo

/-- The quantum a block read delivers: the bytes read, then zero bytes (R150). -/
def zeroPadded (q : Nat) (d : List Byte) : List Byte := d ++ List.replicate (q - d.length) 0#8

/-- A cursor at the start of an entry: the name followed by `LINE_TERM` (R33, R83), and the entries after it. -/
def cursorAt (c : Params) (entry : Name) (rest : List Name) : Cursor :=
  match entry with
  | [] => { curHead := c.lineTermHead, curTail := c.lineTermTail, rest := rest }
  | b :: n => { curHead := b, curTail := n ++ c.lineTerm, rest := rest }

/-- A cursor over a list of entries, or none when there is none (R147). -/
def cursorOver (c : Params) : List Name → Option Cursor
  | [] => none
  | e :: rest => some (cursorAt c e rest)

end Sys2Proof.Machine
end

