-- ==== Sys2Proof/Machine/Ops.lean ====
section
/-! DEFINITION. The operations the meanings share: how an I/O cycle ends, how an error is recorded ("trap entry",
60_exceptions.md R164) and cleared ("trap return", R165), and updates of parts of the DiskSession. -/

namespace Sys2Proof.Machine

/-- The two errors a port operation can record (R13, R160). -/
inductive ErrorKind where
  | proto
  | store
deriving DecidableEq, Repr

/-- Taking an error: `FailProto()` and `FailStore()` (R164). Nothing is saved, no mode changes and control goes nowhere; the
two kinds are indistinguishable to the firmware (R160), so the kind leaves no trace. -/
def raiseError (_ : ErrorKind) (s : State) : State := s.withDisk { s.disk with error := true }

/-- A block operation that fails: the error is recorded and `blk_result <- BLOCK_FAIL` (R164). -/
def raiseBlockError (k : ErrorKind) (s : State) : State :=
  let t := raiseError k s
  t.withDisk { t.disk with blkResult := t.cfg.blockFail }

/-- `Succeed()`: the error bit is cleared (R165). -/
def succeed (s : State) : State := s.withDisk { s.disk with error := false }

/-- A block operation that succeeds: `blk_result <- BLOCK_OK`, `Succeed()` (R150, R151). -/
def succeedBlock (s : State) : State :=
  succeed (s.withDisk { s.disk with blkResult := Config.blockOk })

/-- `fs_fault()`: the tick's one draw (R12). -/
def fsFault (s : State) : Bool := s.draws.fsFault

/-- `file <- f`. -/
def setFile (s : State) (f : Option Handle) : State := s.withDisk { s.disk with file := f }

/-- `dir <- c`. -/
def setDir (s : State) (c : Option Cursor) : State := s.withDisk { s.disk with dir := c }

/-- `h.pos <- p` for the open handle `h`. -/
def setPos (s : State) (h : Handle) (p : Nat) : State := setFile s (some { h with pos := p })

/-- `last_cmd <- v` (R131). -/
def setLastCmd (s : State) (v : Byte) : State := s.withDisk { s.disk with lastCmd := v }

/-- The name is consumed: `fname <- []`, `fname_committed <- false` (R141). -/
def consumeName (s : State) : State := s.withDisk { s.disk with fname := [], fnameCommitted := false }

/-- The end of an IoRead's service: `data_drive <- some(b)`, `io_latch <- some(b)` (R96). -/
def ioReadDone (b : Byte) (s : State) : State := (s.withDrive (some b)).withLatch (some b)

/-- The end of an IoWrite's service: `io_latch <- none` (R97). -/
def ioWriteDone (s : State) : State := s.withLatch none

end Sys2Proof.Machine
end

