-- ==== Sys2Proof/Machine/Console.lean ====
section
/-! DEFINITION. The console register emulator (41_console.md R110 to R114): each meaning is the service of the I/O cycle
that carries the port operation. -/

namespace Sys2Proof.Machine

/-- `OUT CON_CTRL, v` (R110). -/
def execOutConCtrl (v : Byte) (s : State) : Host.Outcome State Fault Refusal :=
  .next (ioWriteDone (s.withCon { s.con with ctrl := v }))

/-- `IN CON_STATUS` (R111). -/
def execInConStatus (s : State) : Host.Outcome State Fault Refusal := .next (ioReadDone (conStatusByte s) s)

/-- The registers after a data read (R112): with receive-ready set the oldest byte of `con_in` is taken. Receive-ready with
nothing in `con_in` is in no run, because step (a) sets the one from the other (log 13). -/
def conDataReceive (s : State) : State :=
  if s.con.rxReady then
    match s.conIn with
    | b :: rest => (s.withConIn rest).withCon { s.con with rxData := b, rxReady := false }
    | [] => s.withCon { s.con with rxReady := false }
  else s

/-- `IN CON_DATA` (R112). -/
def execInConData (s : State) : Host.Outcome State Fault Refusal :=
  .next (ioReadDone (conDataReceive s).con.rxData (conDataReceive s))

/-- `OUT CON_DATA, v` (R113). -/
def execOutConData (v : Byte) (s : State) : Host.Outcome State Fault Refusal :=
  .next (ioWriteDone ((s.withConOut (s.conOut ++ [v])).withCon { s.con with txData := v, tdre := true }))

end Sys2Proof.Machine
end

