-- ==== Sys2Proof/WellFormed.lean ====
section
/-! DEFINITION. Which instructions the encodings can carry (30_encoding.md R73 to R75, R102, R152, R153): the default
rows of the opcode table apply only where no other row does. -/

namespace Sys2Proof

/-- The checks, under a choice of parameters: an unmapped read names a port with no read role, an unmapped write a port
with no write role, a reserved command byte none of the eight codes, a reserved block byte neither operation. Every other
operand has the width of its field and any value. -/
def Instr.wf (c : Params) : Instr → Bool
  | .inUnmapped p    => !c.readPorts.contains p
  | .outUnmapped p _ => !c.writePorts.contains p
  | .cmdReserved v   => !c.cmdCodes.contains v
  | .blkReserved v   => v != Config.blkRead && v != Config.blkWrite
  | .memoryRead _ | .memoryWrite _ _ | .idleMemNostrobe | .idleNorequest | .idleIoNostrobe | .ioRead _ | .ioWrite _ _
  | .ioReadHold | .ioWriteHold | .outDiskCmd _ | .inDiskStatus | .inDiskData | .outDiskData _ | .outDiskFname _
  | .outSeekLo _ | .outSeekMid _ | .outSeekHi _ | .outDmaLo _ | .outDmaHi _ | .outDiskBlock _ | .inDiskBlock
  | .outConCtrl _ | .inConStatus | .inConData | .outConData _ | .openRead | .create | .openAppend | .seekToStart
  | .close | .listDirectory | .openReadwrite | .seek | .blockRead | .blockWrite => true

end Sys2Proof
end

