-- ==== Sys2Proof/Decode.lean ====
section
/-! DEFINITION. The four decode formats (30_encoding.md R70 to R75): the decoder, total on any bytes, and the encoder.

A tick is decoded in stages, as the spec does it: the control lines give a BUS row (R71, R93), the port of an I/O cycle a
PORT row (R73, R96, R97), the byte written to the command port a CMD row (R74, R131), the byte written to the block port a
BLK row (R75, R132). `resolve` does one of the later stages, `decodeTick` all of them.

As bytes, a BUS word is its control vector (bits 4:0 of the first byte), the low and the high byte of the address, and the
data byte; a PORT word is the port number, the direction (bit 0 of the second byte) and the data byte; a CMD or BLK word is
its one byte (log 23). The first byte, or the first two of a PORT word, are the bits of the opcode table. -/

namespace Sys2Proof

/-- The vector `prev_iorq mreq iorq rd wr` (R71). -/
def busVector (prevIorq : Bool) (S : Sample) : BitVec 5 :=
  BitVec.ofBool prevIorq ++ BitVec.ofBool S.mreq ++ BitVec.ofBool S.iorq ++ BitVec.ofBool S.rd ++ BitVec.ofBool S.wr

/-- A row of the BUS table applies when `(vector AND mask) = match` (R71). -/
def busRowApplies (mask pattern v : BitVec 5) : Bool := v &&& mask == pattern

/-- Mask and match of the nine BUS rows, in the order of R71's table. -/
def busRows : List (BitVec 5 × BitVec 5) :=
  [(0b01010#5, 0b01010#5), (0b01011#5, 0b01001#5), (0b01011#5, 0b01000#5), (0b01100#5, 0b00000#5),
    (0b01111#5, 0b00100#5), (0b11110#5, 0b00110#5), (0b11111#5, 0b00101#5), (0b11110#5, 0b10110#5),
    (0b11111#5, 0b10101#5)]

/-- Format BUS (R71): the row a control vector selects, with the operands. The rows cover every vector, so the last one
needs no test. -/
def decodeVector (v : BitVec 5) (a : Addr) (d : Byte) : Instr :=
  if busRowApplies 0b01010#5 0b01010#5 v then .memoryRead a
  else if busRowApplies 0b01011#5 0b01001#5 v then .memoryWrite a d
  else if busRowApplies 0b01011#5 0b01000#5 v then .idleMemNostrobe
  else if busRowApplies 0b01100#5 0b00000#5 v then .idleNorequest
  else if busRowApplies 0b01111#5 0b00100#5 v then .idleIoNostrobe
  else if busRowApplies 0b11110#5 0b00110#5 v then .ioRead a
  else if busRowApplies 0b11111#5 0b00101#5 v then .ioWrite a d
  else if busRowApplies 0b11110#5 0b10110#5 v then .ioReadHold
  else .ioWriteHold

/-- The BUS row of a tick's sample, given the request line of the previous tick (R93). -/
def decodeBus (prevIorq : Bool) (S : Sample) : Instr :=
  decodeVector (busVector prevIorq S) S.addr S.dataIn

/-- The read role of a port, in the order of R96. -/
def decodePortIn (c : Params) (p : Port) : PortIn :=
  if p = c.portConStatus then .conStatus
  else if p = c.portConData then .conData
  else if p = c.portDiskStatus then .diskStatus
  else if p = c.portDiskData then .diskData
  else if p = c.portDiskBlock then .diskBlock
  else .unmapped

/-- The write role of a port, in the order of R97. -/
def decodePortOut (c : Params) (p : Port) : PortOut :=
  if p = c.portConCtrl then .conCtrl
  else if p = c.portConData then .conData
  else if p = c.portDiskCmd then .diskCmd
  else if p = c.portDiskData then .diskData
  else if p = c.portDiskFname then .diskFname
  else if p = c.portSeekLo then .seekLo
  else if p = c.portSeekMid then .seekMid
  else if p = c.portSeekHi then .seekHi
  else if p = c.portDmaLo then .dmaLo
  else if p = c.portDmaHi then .dmaHi
  else if p = c.portDiskBlock then .diskBlock
  else .unmapped

/-- Format PORT (R72): direction (`false` = IN), port number, and the data byte of an OUT. -/
def decodePort (c : Params) (out : Bool) (p : Port) (v : Byte) : Instr :=
  if out then (decodePortOut c p).toInstr p v else (decodePortIn c p).toInstr p

/-- Format CMD (R74, R131). -/
def decodeCmd (c : Params) (v : Byte) : Cmd :=
  if v = c.cmdOpenRead then .openRead
  else if v = c.cmdCreate then .create
  else if v = c.cmdOpenAppend then .openAppend
  else if v = c.cmdSeekToStart then .seekToStart
  else if v = c.cmdClose then .close
  else if v = c.cmdListDirectory then .listDirectory
  else if v = c.cmdOpenReadwrite then .openReadwrite
  else if v = c.cmdSeek then .seek
  else .reserved

/-- Format BLK (R75, R132). -/
def decodeBlk (v : Byte) : Blk :=
  if v = Config.blkRead then .read
  else if v = Config.blkWrite then .write
  else .reserved

/-- The port of an I/O cycle is `addr[7:0]` (R72). -/
def portOf (a : Addr) : Port := a.setWidth 8

/-- One more decode stage: an I/O cycle becomes its port operation, a command write its command, a block write its block
operation; every other instruction is already as far decoded as it can be. -/
def resolve (c : Params) (i : Instr) : Instr :=
  match i with
  | .ioRead a => decodePort c false (portOf a) 0#8
  | .ioWrite a d => decodePort c true (portOf a) d
  | .outDiskCmd v => (decodeCmd c v).toInstr v
  | .outDiskBlock v => (decodeBlk v).toInstr v
  | _ => i

/-- All stages of a tick's decoding. -/
def decodeTick (c : Params) (prevIorq : Bool) (S : Sample) : Instr :=
  resolve c (resolve c (decodeBus prevIorq S))

/-- Why a byte sequence is no word of a format. -/
inductive DecodeError where
  /-- It is not as long as the format's words are. -/
  | wrongLength
  /-- A bit the format does not have is set. -/
  | strayBits
deriving DecidableEq, Repr

/-- The decoder of each format on bytes, total, rejecting by name. -/
def decodeBytes (c : Params) : Format → List Byte → Except DecodeError Instr
  | .bus, [b, lo, hi, d] =>
      if b.toNat < 32 then .ok (decodeVector (b.setWidth 5) (hi ++ lo) d) else .error .strayBits
  | .port, [p, dir, v] =>
      if dir.toNat < 2 then .ok (decodePort c (dir == 1#8) p v) else .error .strayBits
  | .cmd, [v] => .ok ((decodeCmd c v).toInstr v)
  | .blk, [v] => .ok ((decodeBlk v).toInstr v)
  | .bus, _ | .port, _ | .cmd, _ | .blk, _ => .error .wrongLength

/-- Low byte of an address. -/
def loByte (a : Addr) : Byte := a.setWidth 8

/-- High byte of an address. -/
def hiByte (a : Addr) : Byte := a.extractLsb' 8 8

/-- A BUS word: the row's match with free bits 0, and its operands (R71). -/
def busWord (vector : Byte) (a : Addr) (d : Byte) : Format × List Byte := (.bus, [vector, loByte a, hiByte a, d])

/-- A PORT word of an IoRead (R72). -/
def inWord (p : Port) : Format × List Byte := (.port, [p, 0#8, 0#8])

/-- A PORT word of an IoWrite (R72). -/
def outWord (p : Port) (v : Byte) : Format × List Byte := (.port, [p, 1#8, v])

/-- The encoder: the format of an instruction's row, and its word in bytes. -/
def encode (c : Params) : Instr → Format × List Byte
  | .memoryRead a     => busWord 0b01010#8 a 0#8
  | .memoryWrite a d  => busWord 0b01001#8 a d
  | .idleMemNostrobe  => busWord 0b01000#8 0#16 0#8
  | .idleNorequest    => busWord 0b00000#8 0#16 0#8
  | .idleIoNostrobe   => busWord 0b00100#8 0#16 0#8
  | .ioRead a         => busWord 0b00110#8 a 0#8
  | .ioWrite a d      => busWord 0b00101#8 a d
  | .ioReadHold       => busWord 0b10110#8 0#16 0#8
  | .ioWriteHold      => busWord 0b10101#8 0#16 0#8
  | .outDiskCmd v     => outWord c.portDiskCmd v
  | .inDiskStatus     => inWord c.portDiskStatus
  | .inDiskData       => inWord c.portDiskData
  | .outDiskData v    => outWord c.portDiskData v
  | .outDiskFname v   => outWord c.portDiskFname v
  | .outSeekLo v      => outWord c.portSeekLo v
  | .outSeekMid v     => outWord c.portSeekMid v
  | .outSeekHi v      => outWord c.portSeekHi v
  | .outDmaLo v       => outWord c.portDmaLo v
  | .outDmaHi v       => outWord c.portDmaHi v
  | .outDiskBlock v   => outWord c.portDiskBlock v
  | .inDiskBlock      => inWord c.portDiskBlock
  | .outConCtrl v     => outWord c.portConCtrl v
  | .inConStatus      => inWord c.portConStatus
  | .inConData        => inWord c.portConData
  | .outConData v     => outWord c.portConData v
  | .inUnmapped p     => inWord p
  | .outUnmapped p v  => outWord p v
  | .openRead         => (.cmd, [c.cmdOpenRead])
  | .create           => (.cmd, [c.cmdCreate])
  | .openAppend       => (.cmd, [c.cmdOpenAppend])
  | .seekToStart      => (.cmd, [c.cmdSeekToStart])
  | .close            => (.cmd, [c.cmdClose])
  | .listDirectory    => (.cmd, [c.cmdListDirectory])
  | .openReadwrite    => (.cmd, [c.cmdOpenReadwrite])
  | .seek             => (.cmd, [c.cmdSeek])
  | .cmdReserved v    => (.cmd, [v])
  | .blockRead        => (.blk, [Config.blkRead])
  | .blockWrite       => (.blk, [Config.blkWrite])
  | .blkReserved v    => (.blk, [v])

/-- The control lines of a vector, with the operands. -/
def sampleOf (v : BitVec 5) (a : Addr) (d : Byte) : Sample where
  mreq := v.getLsbD 3
  iorq := v.getLsbD 2
  rd := v.getLsbD 1
  wr := v.getLsbD 0
  addr := a
  dataIn := d

/-- A byte as a port address, the high half 0 (95_test_vectors.md, conventions: "high byte free"). -/
def portAddr (p : Port) : Addr := p.setWidth 16

/-- The request line of the previous tick and the sample with which the processor presents the word of an instruction: a
PORT word on an IoRead or IoWrite tick, a CMD word on a write to the command port, a BLK word on a write to the block
port. -/
def presentWord (c : Params) : Format × List Byte → Option (Bool × Sample)
  | (.bus, [b, lo, hi, d]) => some (b.getLsbD 4, sampleOf (b.setWidth 5) (hi ++ lo) d)
  | (.port, [p, dir, v]) =>
      some (false, if dir = 0#8 then sampleOf 0b00110#5 (portAddr p) 0#8 else sampleOf 0b00101#5 (portAddr p) v)
  | (.cmd, [v]) => some (false, sampleOf 0b00101#5 (portAddr c.portDiskCmd) v)
  | (.blk, [v]) => some (false, sampleOf 0b00101#5 (portAddr c.portDiskBlock) v)
  | (.bus, _) | (.port, _) | (.cmd, _) | (.blk, _) => none

/-- The format of a word the opcode table gives `nbits` bits. Up to 5 bits it is a BUS word, above 8 a PORT word. In one
byte the table has rows of three formats with the same bits, and the machine tells them apart by where the byte comes from,
which a bare word does not say: here the byte is a BUS word when it is the match of a BUS row, else a CMD word when it is one
of the eight codes, else a BUS word when it has no more than the five bits, else a CMD word (log 15). -/
def tableFormat (nbits w : Nat) : Option Format :=
  if nbits ≤ 5 then some .bus
  else if nbits ≤ 8 then
    if busRows.any (fun r => r.2.toNat == w) then some .bus
    else if Params.reference.cmdCodes.any (fun k => k.toNat == w) then some .cmd
    else if w < 32 then some .bus
    else some .cmd
  else if nbits ≤ 16 then some .port
  else none

/-- The bytes of a table word, the bits above `nbits` zero. -/
def tableBytes (nbits w : Nat) : Option (Format × List Byte) :=
  if w < 2 ^ nbits then
    match tableFormat nbits w with
    | some .bus  => some (.bus, [BitVec.ofNat 8 w, 0#8, 0#8, 0#8])
    | some .port => some (.port, [BitVec.ofNat 8 w, BitVec.ofNat 8 (w / 256), 0#8])
    | some .cmd  => some (.cmd, [BitVec.ofNat 8 w])
    | some .blk  => some (.blk, [BitVec.ofNat 8 w])
    | none       => none
  else none

/-- The instruction the decoder reads from an opcode-table word, under the reference parameters. -/
def decodeTableWord (nbits w : Nat) : Option Instr :=
  match tableBytes nbits w with
  | some (f, bytes) =>
    match decodeBytes Params.reference f bytes with
    | .ok i => some i
    | .error _ => none
  | none => none

end Sys2Proof
end

