-- ==== Sys2Proof/Machine/Blocks.lean ====
section
/-! DEFINITION. The block operations and the reserved block byte (43_disk_commands.md R150, R151, R153): each meaning is the
service of the write of its byte to the block port (42_disk_ports.md R132). -/

namespace Sys2Proof.Machine

/-- How far a block read that found `n` bytes moves the position (R150, D28). -/
def readAdvance (c : Params) (n : Nat) : Nat :=
  match c.eofReadAdvance with
  | .quantum => c.quantum
  | .actual => n

/-- A block read that nothing refuses: the quantum, zero-padded, goes to memory at `dma` (R150). -/
def blockReadTransfer (h : Handle) (s : State) : State :=
  let d := fsRead s h.name h.pos s.cfg.quantum
  succeedBlock
    (setPos (memWriteMany s (dmaAddress s.disk).toNat (zeroPadded s.cfg.quantum d)) h (h.pos + readAdvance s.cfg d.length))

/-- `BlockRead()` (R150): the checks in the order of R166. -/
def blockRead (s : State) : State :=
  match s.disk.file with
  | none => raiseBlockError .proto s
  | some h =>
    if s.cfg.modeStrict && !h.mode.readable then raiseBlockError .store s
    else if fsFault s then raiseBlockError .store s
    else blockReadTransfer h s

/-- A block write that nothing refuses: the quantum at `dma` goes to the file, is flushed, and the position moves (R151). -/
def blockWriteTransfer (h : Handle) (s : State) : State :=
  let buf := memReadMany s (dmaAddress s.disk).toNat s.cfg.quantum
  succeedBlock (setPos (fsFlush (fsWrite s h.name h.pos buf) h.name) h (h.pos + s.cfg.quantum))

/-- `BlockWrite()` (R151): the checks in the order of R166. -/
def blockWrite (s : State) : State :=
  match s.disk.file with
  | none => raiseBlockError .proto s
  | some h =>
    if s.cfg.modeStrict && !h.mode.writable then raiseBlockError .store s
    else if fsFault s then raiseBlockError .store s
    else blockWriteTransfer h s

/-- `BLOCK_READ` (R150). -/
def execBlockRead (s : State) : Host.Outcome State Fault Refusal := .next (ioWriteDone (blockRead s))

/-- `BLOCK_WRITE` (R151). -/
def execBlockWrite (s : State) : Host.Outcome State Fault Refusal := .next (ioWriteDone (blockWrite s))

/-- A reserved block byte: `ReservedBlockOp()` (R153). -/
def execBlkReserved (_ : Byte) (s : State) : Host.Outcome State Fault Refusal :=
  .next (ioWriteDone (raiseBlockError .proto s))

end Sys2Proof.Machine
end

