-- ==== Sys2Proof/Machine/Commands.lean ====
section
/-! DEFINITION. The eight commands and the reserved command byte (43_disk_commands.md R140 to R149, R152): each meaning is
the service of the write of its code to the command port, `last_cmd` included (42_disk_ports.md R131). -/

namespace Sys2Proof.Machine

/-- The open-class commands (R141). -/
inductive OpenKind where
  | openRead
  | create
  | openAppend
  | openReadwrite
deriving DecidableEq, Repr

/-- Open an existing file (R142, R144, R148): it fails on `fs_fault()` and when the file is absent. -/
def fsOpenExisting (s : State) (n : Name) (mode : AccessMode) (pos : Nat) : Option (AccessMode × Nat) :=
  if fsFault s || !fsExists s n then none else some (mode, pos)

/-- `FsOpen(kind, n)` (R142, R143, R144, R148): what it leaves in the store, and mode and position of the new handle or its
failure. -/
def fsOpen (kind : OpenKind) (n : Name) (s : State) : State × Option (AccessMode × Nat) :=
  match kind with
  | .openRead => (s, fsOpenExisting s n .r 0)
  | .openAppend => (s, fsOpenExisting s n .w (fsLen s n))
  | .openReadwrite => (s, fsOpenExisting s n .rw 0)
  | .create =>
      if fsFault s then
        (if s.draws.removed && fsExists s n then fsRemove s n else s, none)
      else
        (fsCreateEmpty (if fsExists s n then fsRemove s n else s) n, some (.w, 0))

/-- After a failed open: a surviving handle whose file is gone is closed (R141, D42). -/
def dropOrphan (s : State) : State :=
  match s.disk.file with
  | some h => if fsExists s h.name then s else setFile s none
  | none => s

/-- `r <- if n = [] then fail else FsOpen(kind, n)`: the empty name never reaches the collaborator (R141, D43). -/
def openAttempt (kind : OpenKind) (n : Name) (s : State) : State × Option (AccessMode × Nat) :=
  if n.isEmpty then (s, none) else fsOpen kind n s

/-- `OpenClass(kind)` (R141). -/
def openClass (kind : OpenKind) (s : State) : State :=
  if s.disk.fnameCommitted then
    match openAttempt kind s.disk.fname (consumeName s) with
    | (t, some (mode, pos)) => succeed (setFile t (some { name := s.disk.fname, mode := mode, pos := pos }))
    | (t, none) => raiseError .store (dropOrphan t)
  else raiseError .proto s

/-- The common form of `SeekToStart()` and `Seek()` (R145, R149): a handle, then the collaborator, then the position. -/
def moveTo (p : Nat) (s : State) : State :=
  match s.disk.file with
  | none => raiseError .proto s
  | some h => if fsFault s then raiseError .store s else succeed (setPos s h p)

/-- `Close()` (R146). -/
def closeSession (s : State) : State := succeed (setDir (setFile s none) none)

/-- `ListDirectory()` (R147). -/
def listDirectory (s : State) : State :=
  if fsFault s then raiseError .store s
  else succeed (setDir s (cursorOver s.cfg (listable (fsList s))))

/-- A command's service: `last_cmd` first, then the command (R131), then the end of the IoWrite (R97). -/
def runCommand (code : Byte) (f : State → State) (s : State) : State := ioWriteDone (f (setLastCmd s code))

/-- `OPEN_READ` (R142). -/
def execOpenRead (s : State) : Host.Outcome State Fault Refusal :=
  .next (runCommand s.cfg.cmdOpenRead (openClass .openRead) s)

/-- `CREATE` (R143). -/
def execCreate (s : State) : Host.Outcome State Fault Refusal :=
  .next (runCommand s.cfg.cmdCreate (openClass .create) s)

/-- `OPEN_APPEND` (R144). -/
def execOpenAppend (s : State) : Host.Outcome State Fault Refusal :=
  .next (runCommand s.cfg.cmdOpenAppend (openClass .openAppend) s)

/-- `OPEN_READWRITE` (R148). -/
def execOpenReadwrite (s : State) : Host.Outcome State Fault Refusal :=
  .next (runCommand s.cfg.cmdOpenReadwrite (openClass .openReadwrite) s)

/-- `SEEK_TO_START` (R145). -/
def execSeekToStart (s : State) : Host.Outcome State Fault Refusal :=
  .next (runCommand s.cfg.cmdSeekToStart (moveTo 0) s)

/-- `SEEK` (R149): `seek_hi : seek_mid : seek_lo` becomes the position. -/
def execSeek (s : State) : Host.Outcome State Fault Refusal :=
  .next (runCommand s.cfg.cmdSeek (moveTo (seekPosition s.disk).toNat) s)

/-- `CLOSE` (R146). -/
def execClose (s : State) : Host.Outcome State Fault Refusal :=
  .next (runCommand s.cfg.cmdClose closeSession s)

/-- `LIST_DIRECTORY` (R147). -/
def execListDirectory (s : State) : Host.Outcome State Fault Refusal :=
  .next (runCommand s.cfg.cmdListDirectory listDirectory s)

/-- A reserved command byte: `ReservedCommand()` (R152). -/
def execCmdReserved (v : Byte) (s : State) : Host.Outcome State Fault Refusal :=
  .next (runCommand v (raiseError .proto) s)

end Sys2Proof.Machine
end

