-- ==== Sys2Proof/Machine/DiskPorts.lean ====
section
/-! DEFINITION. The ports of the virtual disk controller (42_disk_ports.md R120 to R134) and the unmapped ports
(40_bus_cycles.md R102): each meaning is the service of the I/O cycle that carries the port operation. -/

namespace Sys2Proof.Machine

/-- `IN DISK_STATUS` (R120). -/
def execInDiskStatus (s : State) : Host.Outcome State Fault Refusal := .next (ioReadDone (diskStatusByte s) s)

/-- `DiskFnameWrite(v)` (R121). -/
def fnameWrite (v : Byte) (s : State) : State :=
  if v = 0x00#8 then s.withDisk { s.disk with fnameCommitted := true }
  else if s.disk.fnameCommitted then s.withDisk { s.disk with fname := [v], fnameCommitted := false }
  else if s.disk.fname.length < s.cfg.fnameMax then s.withDisk { s.disk with fname := s.disk.fname ++ [v] }
  else s

/-- `OUT DISK_FNAME, v` (R121). -/
def execOutDiskFname (v : Byte) (s : State) : Host.Outcome State Fault Refusal := .next (ioWriteDone (fnameWrite v s))

/-- `OUT SEEK_LO, v` (R122). -/
def execOutSeekLo (v : Byte) (s : State) : Host.Outcome State Fault Refusal :=
  .next (ioWriteDone (s.withDisk { s.disk with seekLo := v }))

/-- `OUT SEEK_MID, v` (R123). -/
def execOutSeekMid (v : Byte) (s : State) : Host.Outcome State Fault Refusal :=
  .next (ioWriteDone (s.withDisk { s.disk with seekMid := v }))

/-- `OUT SEEK_HI, v` (R124). -/
def execOutSeekHi (v : Byte) (s : State) : Host.Outcome State Fault Refusal :=
  .next (ioWriteDone (s.withDisk { s.disk with seekHi := v }))

/-- `OUT DMA_LO, v` (R125). -/
def execOutDmaLo (v : Byte) (s : State) : Host.Outcome State Fault Refusal :=
  .next (ioWriteDone (s.withDisk { s.disk with dmaLo := v }))

/-- `OUT DMA_HI, v` (R126). -/
def execOutDmaHi (v : Byte) (s : State) : Host.Outcome State Fault Refusal :=
  .next (ioWriteDone (s.withDisk { s.disk with dmaHi := v }))

/-- The cursor after one of its bytes is delivered (R127): the rest of the entry, else the next entry, else none. -/
def cursorAdvance (c : Params) (k : Cursor) : Option Cursor :=
  match k.curTail with
  | b :: l => some { k with curHead := b, curTail := l }
  | [] => cursorOver c k.rest

/-- `DirDataRead()` (R127): the byte and the state; the end of the listing performs `Succeed()`. -/
def dirDataRead (k : Cursor) (s : State) : Byte × State :=
  match cursorAdvance s.cfg k with
  | some k' => (k.curHead, setDir s (some k'))
  | none => (k.curHead, succeed (setDir s none))

/-- `FileDataRead()` (R128): the byte and the state. -/
def fileDataRead (s : State) : Byte × State :=
  match s.disk.file with
  | some h =>
    if handleHasData s h then
      if fsFault s then (s.cfg.diskDataEmpty, raiseError .store s)
      else ((fsContents s h.name).getD h.pos 0#8, setPos s h (h.pos + 1))
    else (s.cfg.diskDataEmpty, s)
  | none => (s.cfg.diskDataEmpty, s)

/-- `DiskDataRead()` (R133): the cursor is served first. -/
def diskDataRead (s : State) : Byte × State :=
  match s.disk.dir with
  | some k => dirDataRead k s
  | none => fileDataRead s

/-- `IN DISK_DATA` (R133, R127, R128). -/
def execInDiskData (s : State) : Host.Outcome State Fault Refusal :=
  .next (ioReadDone (diskDataRead s).1 (diskDataRead s).2)

/-- `DiskDataWrite(v)` (R129): a failed write leaves `files` (D32; log 21). -/
def diskDataWrite (v : Byte) (s : State) : State :=
  match s.disk.file with
  | some h =>
    if s.cfg.modeStrict && !h.mode.writable then raiseError .store s
    else if fsFault s then raiseError .store s
    else setPos (fsWrite s h.name h.pos [v]) h (h.pos + 1)
  | none => s

/-- `OUT DISK_DATA, v` (R129). -/
def execOutDiskData (v : Byte) (s : State) : Host.Outcome State Fault Refusal := .next (ioWriteDone (diskDataWrite v s))

/-- `IN DISK_BLOCK` (R130). -/
def execInDiskBlock (s : State) : Host.Outcome State Fault Refusal := .next (ioReadDone s.disk.blkResult s)

/-- `OUT DISK_CMD, v` (R131): the command dispatcher. -/
def execOutDiskCmd (v : Byte) (s : State) : Host.Outcome State Fault Refusal :=
  match decodeCmd s.cfg v with
  | .openRead      => execOpenRead s
  | .create        => execCreate s
  | .openAppend    => execOpenAppend s
  | .seekToStart   => execSeekToStart s
  | .close         => execClose s
  | .listDirectory => execListDirectory s
  | .openReadwrite => execOpenReadwrite s
  | .seek          => execSeek s
  | .reserved      => execCmdReserved v s

/-- `OUT DISK_BLOCK, v` (R132): the block dispatcher. -/
def execOutDiskBlock (v : Byte) (s : State) : Host.Outcome State Fault Refusal :=
  match decodeBlk v with
  | .read     => execBlockRead s
  | .write    => execBlockWrite s
  | .reserved => execBlkReserved v s

/-- `IN` of an unmapped port (R102): `UNMAPPED_READ`, no state changes. -/
def execInUnmapped (_ : Port) (s : State) : Host.Outcome State Fault Refusal := .next (ioReadDone s.cfg.unmappedRead s)

/-- `OUT` to an unmapped port (R102): ignored. -/
def execOutUnmapped (_ : Port) (_ : Byte) (s : State) : Host.Outcome State Fault Refusal := .next (ioWriteDone s)

end Sys2Proof.Machine
end

