-- ==== Sys2Proof/Machine/Bus.lean ====
section
/-! DEFINITION. The bus-cycle classes (40_bus_cycles.md R94 to R99): the service, step (e), of each. -/

namespace Sys2Proof.Machine

/-- `MemoryRead` (R94). -/
def execMemoryRead (addr : Addr) (s : State) : Host.Outcome State Fault Refusal :=
  .next ((s.withDrive (some (memRead s addr.toNat))).withLatch none)

/-- `MemoryWrite` (R95). -/
def execMemoryWrite (addr : Addr) (data : Byte) (s : State) : Host.Outcome State Fault Refusal :=
  .next ((memWrite s addr.toNat data).withLatch none)

/-- The service of an Idle tick (R98). -/
def idleService (s : State) : State := s.withLatch none

/-- `Idle`, memory request with no strobe (R98). -/
def execIdleMemNostrobe (s : State) : Host.Outcome State Fault Refusal := .next (idleService s)

/-- `Idle`, no request (R98). -/
def execIdleNorequest (s : State) : Host.Outcome State Fault Refusal := .next (idleService s)

/-- `Idle`, I/O request with no strobe (R98). -/
def execIdleIoNostrobe (s : State) : Host.Outcome State Fault Refusal := .next (idleService s)

/-- `IoRead` (R96): the port dispatcher `PortRead`. -/
def execIoRead (addr : Addr) (s : State) : Host.Outcome State Fault Refusal :=
  match decodePortIn s.cfg (portOf addr) with
  | .conStatus  => execInConStatus s
  | .conData    => execInConData s
  | .diskStatus => execInDiskStatus s
  | .diskData   => execInDiskData s
  | .diskBlock  => execInDiskBlock s
  | .unmapped   => execInUnmapped (portOf addr) s

/-- `IoWrite` (R97): the port dispatcher `PortWrite`. -/
def execIoWrite (addr : Addr) (data : Byte) (s : State) : Host.Outcome State Fault Refusal :=
  match decodePortOut s.cfg (portOf addr) with
  | .conCtrl   => execOutConCtrl data s
  | .conData   => execOutConData data s
  | .diskCmd   => execOutDiskCmd data s
  | .diskData  => execOutDiskData data s
  | .diskFname => execOutDiskFname data s
  | .seekLo    => execOutSeekLo data s
  | .seekMid   => execOutSeekMid data s
  | .seekHi    => execOutSeekHi data s
  | .dmaLo     => execOutDmaLo data s
  | .dmaHi     => execOutDmaHi data s
  | .diskBlock => execOutDiskBlock data s
  | .unmapped  => execOutUnmapped (portOf addr) data s

/-- `IoReadHold` (R99): the latched byte is driven again and no port rule runs. With no byte latched the tick is Idle (R71,
R98), and so it is when the parameter says that a hold does not drive (R99, D11; log 9). -/
def execIoReadHold (s : State) : Host.Outcome State Fault Refusal :=
  match s.ioLatch with
  | some b => if s.cfg.ioReadHoldDrive then .next (s.withDrive (some b)) else .next (idleService s)
  | none => .next (idleService s)

/-- `IoWriteHold` (R99): the write is not performed again. -/
def execIoWriteHold (s : State) : Host.Outcome State Fault Refusal := .next (s.withLatch none)

end Sys2Proof.Machine
end

