-- ==== Sys2Proof/Machine/Dispatch.lean ====
section
/-! DEFINITION. One arm per instruction, each one call of its meaning: step (e) of the tick that carries it (log 14). -/

namespace Sys2Proof.Machine

def exec (i : Instr) (s : State) : Host.Outcome State Fault Refusal :=
  match i with
  | .memoryRead addr => Sys2Proof.Machine.execMemoryRead addr s
  | .memoryWrite addr data => Sys2Proof.Machine.execMemoryWrite addr data s
  | .idleMemNostrobe => Sys2Proof.Machine.execIdleMemNostrobe s
  | .idleNorequest => Sys2Proof.Machine.execIdleNorequest s
  | .idleIoNostrobe => Sys2Proof.Machine.execIdleIoNostrobe s
  | .ioRead addr => Sys2Proof.Machine.execIoRead addr s
  | .ioWrite addr data => Sys2Proof.Machine.execIoWrite addr data s
  | .ioReadHold => Sys2Proof.Machine.execIoReadHold s
  | .ioWriteHold => Sys2Proof.Machine.execIoWriteHold s
  | .outDiskCmd v => Sys2Proof.Machine.execOutDiskCmd v s
  | .inDiskStatus => Sys2Proof.Machine.execInDiskStatus s
  | .inDiskData => Sys2Proof.Machine.execInDiskData s
  | .outDiskData v => Sys2Proof.Machine.execOutDiskData v s
  | .outDiskFname v => Sys2Proof.Machine.execOutDiskFname v s
  | .outSeekLo v => Sys2Proof.Machine.execOutSeekLo v s
  | .outSeekMid v => Sys2Proof.Machine.execOutSeekMid v s
  | .outSeekHi v => Sys2Proof.Machine.execOutSeekHi v s
  | .outDmaLo v => Sys2Proof.Machine.execOutDmaLo v s
  | .outDmaHi v => Sys2Proof.Machine.execOutDmaHi v s
  | .outDiskBlock v => Sys2Proof.Machine.execOutDiskBlock v s
  | .inDiskBlock => Sys2Proof.Machine.execInDiskBlock s
  | .outConCtrl v => Sys2Proof.Machine.execOutConCtrl v s
  | .inConStatus => Sys2Proof.Machine.execInConStatus s
  | .inConData => Sys2Proof.Machine.execInConData s
  | .outConData v => Sys2Proof.Machine.execOutConData v s
  | .inUnmapped p => Sys2Proof.Machine.execInUnmapped p s
  | .outUnmapped p v => Sys2Proof.Machine.execOutUnmapped p v s
  | .openRead => Sys2Proof.Machine.execOpenRead s
  | .create => Sys2Proof.Machine.execCreate s
  | .openAppend => Sys2Proof.Machine.execOpenAppend s
  | .seekToStart => Sys2Proof.Machine.execSeekToStart s
  | .close => Sys2Proof.Machine.execClose s
  | .listDirectory => Sys2Proof.Machine.execListDirectory s
  | .openReadwrite => Sys2Proof.Machine.execOpenReadwrite s
  | .seek => Sys2Proof.Machine.execSeek s
  | .cmdReserved v => Sys2Proof.Machine.execCmdReserved v s
  | .blockRead => Sys2Proof.Machine.execBlockRead s
  | .blockWrite => Sys2Proof.Machine.execBlockWrite s
  | .blkReserved v => Sys2Proof.Machine.execBlkReserved v s

end Sys2Proof.Machine
end

