-- ==== Sys2Proof/Machine/Tick.lean ====
section
/-! DEFINITION. What stands around the service of a bus cycle: the environment's input, steps (a) to (d) and (f) of the tick
(40_bus_cycles.md R90 to R93, R100), the Boot/Load Stage and the full system reset (70_reset_and_hazards.md R180 to R184). -/

namespace Sys2Proof.Machine

/-- The classification of R93, with the hold of a read that no byte is latched for counted as Idle (R71). -/
inductive BusClass where
  | memoryRead
  | memoryWrite
  | ioRead
  | ioWrite
  | idle
  | ioReadHold
  | ioWriteHold
deriving DecidableEq, Repr

/-- `Classify(S, prev_iorq, io_latch)` as R93 writes it. The step decodes by the table of R71 (`decodeBus`). -/
def classify (S : Sample) (prevIorq : Bool) (ioLatch : Option Byte) : BusClass :=
  if S.mreq then
    if S.rd then .memoryRead
    else if S.wr then .memoryWrite
    else .idle
  else if S.iorq then
    if S.rd then
      if !prevIorq then .ioRead
      else if ioLatch.isSome then .ioReadHold
      else .idle
    else if S.wr then
      if !prevIorq then .ioWrite else .ioWriteHold
    else .idle
  else .idle

/-- The environment's input of this step: the scheduled one, else the free one (log 4). -/
def nextInput (s : State) : Input :=
  match s.inputs with
  | e :: _ => e
  | [] => Config.freeInput s.ticks

/-- The input is taken: what arrived since the last step stands in `con_in` (R11), and the collaborator's answers for this
tick are at hand (R12; log 17). -/
def takeInput (s : State) : State :=
  { s with
    inputs := s.inputs.tail
    ticks := s.ticks + 1
    conIn := s.conIn ++ (nextInput s).arriving
    draws := (nextInput s).draws }

/-- Step (a) (R91, R168): receive-ready and the interrupt line follow the live condition. -/
def stepA (s : State) : State :=
  { s with
    con := { s.con with rxReady := inputAvailable s }
    intLine := inputAvailable s && rie s }

/-- Steps (a) and (b): the clock line rises (R90, R92). -/
def beginTick (s : State) : State := { stepA s with clk := true }

/-- Step (d): the BUS row of the sample (R93). -/
def fetch (s : State) (S : Sample) : Instr := decodeBus s.prevIorq S

/-- Step (f) (R100): the clock falls, the drive is released, the request line is remembered. `driven` keeps the byte that was
driven, an output of the tick (R90; log 16). -/
def endTick (S : Sample) (s : State) : State :=
  { s with
    clk := false
    driven := s.dataDrive
    dataDrive := none
    prevIorq := S.iorq }

/-- The tick after its service. -/
def finishTick (S : Sample) : Host.Outcome State Fault Refusal → Host.Outcome State Fault Refusal
  | .next s => .next (endTick S s)
  | .fault r => .fault r
  | .refused r => .refused r

/-- The lines and registers `Boot()` creates (R180, R44). -/
def bootCreate (s : State) : State :=
  { s with
    phase := .boot
    resetLine := true
    clk := false
    intLine := false
    dataDrive := none
    driven := none
    prevIorq := false
    ioLatch := none
    con := .created
    disk := .created }

/-- `halt E_BOOT` (R181): the lines stay as they are. -/
def haltBoot (s : State) : State := { s with phase := .halt }

/-- The image is in the Memory Array: the processor is released (R182). -/
def release (s : State) : State := { s with resetLine := false, phase := .run }

/-- `Boot()` (R180), one step (log 18). -/
def bootStage (e : Input) (s : State) : Host.Outcome State Fault Refusal :=
  if !e.fsInitOk || !fsExists s s.cfg.firmwareName || fsFault s then .next (haltBoot (bootCreate s))
  else if Config.memSize < fsLen s s.cfg.firmwareName then .refused .imageTooLong
  else .next (release (memWriteMany (bootCreate s) 0 (fsContents s s.cfg.firmwareName)))

/-- A full system reset, which is a new power-on (R184): the bridge's state as at power-on, the Memory Array unspecified
again, the console streams and the store kept (log 12). -/
def fullReset (s : State) : State :=
  { bootCreate s with
    mem := []
    powerOns := s.powerOns + 1 }

end Sys2Proof.Machine
end

