-- ==== Sys2Proof/Machine/Step.lean ====
section
/-! DEFINITION. One step of the machine (40_bus_cycles.md R90), and the presenting of one opcode-table word to it. -/

namespace Sys2Proof.Machine

/-- One step: a power cycle when the environment gives one (R184), else the boot stage in phase `Boot` (R180), a tick in phase
`Run` (R90), and nothing any more in phase `Halt` (R181). -/
def step (s : State) : Host.Outcome State Fault Refusal :=
  let e := nextInput s
  let t := takeInput s
  if e.systemReset then .next (fullReset t)
  else
    match s.phase with
    | .boot => bootStage e t
    | .run => finishTick e.sample (exec (fetch t e.sample) (beginTick t))
    | .halt => .fault .halted

/-- The input with which the processor presents a sample and nothing else happens. -/
def Input.presenting (S : Sample) : Input where
  systemReset := false
  fsInitOk := true
  arriving := []
  sample := S
  draws := { fsFault := false, removed := false, listing := [] }

/-- `s` with an opcode-table word presented by the processor on the next tick (log 6): the word's control vector gives the
request line of the previous tick too, a held read needs a latched byte, and the bridge is running. A word the decoder
refuses changes nothing. -/
def State.withFetchWord (s : State) (nbits w : Nat) : State :=
  match decodeTableWord nbits w, (tableBytes nbits w).bind (presentWord s.cfg) with
  | some i, some (prev, S) =>
    { s with
      phase := .run
      resetLine := false
      prevIorq := prev
      ioLatch := if i = .ioReadHold then some (s.ioLatch.getD 0#8) else s.ioLatch
      inputs := Input.presenting S :: s.inputs }
  | _, _ => s

end Sys2Proof.Machine
end

