-- ==== Sys2Proof/Safety.lean ====
section
/-! DEFINITION. What claims about the bridge speak of: what a service leaves alone, the invariant of a run, and runs of
ticks. -/

namespace Sys2Proof.Machine

/-- What no service of a bus cycle writes: the phase, the lines of the other steps of the tick, the parameters, the
environment's inputs and answers, and the model's counters. -/
def serviceFrame (s t : State) : Prop :=
  t.phase = s.phase ∧ t.prevIorq = s.prevIorq ∧ t.clk = s.clk ∧ t.resetLine = s.resetLine ∧ t.intLine = s.intLine
    ∧ t.cfg = s.cfg ∧ t.inputs = s.inputs ∧ t.ticks = s.ticks ∧ t.powerOns = s.powerOns ∧ t.draws = s.draws
    ∧ t.driven = s.driven

/-- Every byte of the Memory Array reads as before. -/
def sameMemory (s t : State) : Prop := ∀ a, memRead t a = memRead s a

/-- The console registers and both console streams are as before. -/
def sameConsole (s t : State) : Prop := t.con = s.con ∧ t.conIn = s.conIn ∧ t.conOut = s.conOut

/-- Both devices and the backing store are as before. -/
def sameDevices (s t : State) : Prop := sameConsole s t ∧ t.disk = s.disk ∧ t.files = s.files

/-- An I/O read ends with the byte driven and latched (R96). -/
def drives (t : State) (b : Byte) : Prop := t.dataDrive = some b ∧ t.ioLatch = some b

/-- A cycle that is no read drives nothing new and leaves nothing latched (R95, R97, R98). -/
def drivesNothing (s t : State) : Prop := t.dataDrive = s.dataDrive ∧ t.ioLatch = none

/-- What an I/O write to the disk controller leaves alone beside the DiskSession and `files`. -/
def diskWriteFrame (s t : State) : Prop :=
  serviceFrame s t ∧ drivesNothing s t ∧ sameMemory s t ∧ sameConsole s t

/-- The operations that may set the error bit: the rows of R134 that say so, and of a data-port read the one that finds no
cursor open. -/
def maySetError (s : State) : Instr → Bool
  | .inDiskData => s.disk.dir.isNone
  | .outDiskData _ | .openRead | .create | .openAppend | .seekToStart | .listDirectory | .openReadwrite | .seek
  | .cmdReserved _ | .blockRead | .blockWrite | .blkReserved _ => true
  | .memoryRead _ | .memoryWrite _ _ | .idleMemNostrobe | .idleNorequest | .idleIoNostrobe | .ioRead _ | .ioWrite _ _
  | .ioReadHold | .ioWriteHold | .outDiskCmd _ | .inDiskStatus | .outDiskFname _ | .outSeekLo _ | .outSeekMid _
  | .outSeekHi _ | .outDmaLo _ | .outDmaHi _ | .outDiskBlock _ | .inDiskBlock | .outConCtrl _ | .inConStatus | .inConData
  | .outConData _ | .inUnmapped _ | .outUnmapped _ _ | .close => false

/-- The operations that may clear the error bit: the eight commands, the two block operations, and of a data-port read the one
that finds a cursor open (R134, R165). -/
def mayClearError (s : State) : Instr → Bool
  | .inDiskData => s.disk.dir.isSome
  | .openRead | .create | .openAppend | .seekToStart | .close | .listDirectory | .openReadwrite | .seek
  | .blockRead | .blockWrite => true
  | .memoryRead _ | .memoryWrite _ _ | .idleMemNostrobe | .idleNorequest | .idleIoNostrobe | .ioRead _ | .ioWrite _ _
  | .ioReadHold | .ioWriteHold | .outDiskCmd _ | .inDiskStatus | .outDiskFname _ | .outSeekLo _ | .outSeekMid _
  | .outSeekHi _ | .outDmaLo _ | .outDmaHi _ | .outDiskBlock _ | .inDiskBlock | .outConCtrl _ | .inConStatus | .inConData
  | .outConData _ | .inUnmapped _ | .outUnmapped _ _ | .outDiskData _ | .cmdReserved _ | .blkReserved _ => false

/-- The invariant of a run: what the spec says holds between steps, whatever the environment does. -/
structure Invariant (s : State) : Prop where
  /-- The parameters are a choice the spec allows (R8, R73). -/
  cfg_valid : s.cfg.valid = true
  /-- The Memory Array is in its canonical form. -/
  mem_wf : s.mem.wf = true
  /-- `files` is in its canonical form; no name is empty (R12, R42). -/
  files_wf : s.files.wf = true
  /-- `len(fname) <= FNAME_MAX` (R31). -/
  fname_bound : s.disk.fname.length ≤ s.cfg.fnameMax
  /-- "A zero byte cannot be part of a name" (R82). -/
  fname_nonzero : 0x00#8 ∉ s.disk.fname
  /-- "No handle may name a missing file" (D42). -/
  file_exists : ∀ h, s.disk.file = some h → fsExists s h.name = true
  /-- The entries still to come hold neither `"."` nor `".."` (R33). -/
  dir_names : ∀ k, s.disk.dir = some k → ∀ n ∈ k.rest, isDotName n = false
  /-- `tdre` is never `false` (R28). -/
  tdre_set : s.con.tdre = true
  /-- `blk_result` is one of the two codes (R36). -/
  blk_result : s.disk.blkResult = Config.blockOk ∨ s.disk.blkResult = s.cfg.blockFail
  /-- Between ticks the clock line is low and the data bus is not driven (R100). -/
  bus_idle : s.clk = false ∧ s.dataDrive = none
  /-- The processor is held in reset exactly until the tick loop runs (R21, R182, D35). -/
  reset_line : s.resetLine = decide (s.phase ≠ .run)
  /-- The interrupt line is not asserted before the tick loop runs (R180, D35). -/
  int_line : s.phase ≠ .run → s.intLine = false
  /-- A byte is latched only while the read it answered is still asserted (R23, R99). -/
  latch_held : s.ioLatch.isSome = true → s.prevIorq = true

/-- One service of `IN DISK_DATA` after another: what each drives, in order, and the state left. -/
def readDiskData : Nat → State → List (Option Byte) × State
  | 0, s => ([], s)
  | n + 1, s =>
    match exec .inDiskData s with
    | .next t => (t.dataDrive :: (readDiskData n t).1, (readDiskData n t).2)
    | .fault _ => ([], s)
    | .refused _ => ([], s)

/-- An instruction decoded as far as the spec decodes it (R6). -/
def leaf (c : Params) (i : Instr) : Instr := resolve c (resolve c i)

/-- The class of a BUS row on a tick (R71, R93): the hold of a read that no byte is latched for is Idle. -/
def classOf (ioLatch : Option Byte) : Instr → Option BusClass
  | .memoryRead _ => some .memoryRead
  | .memoryWrite _ _ => some .memoryWrite
  | .idleMemNostrobe | .idleNorequest | .idleIoNostrobe => some .idle
  | .ioRead _ => some .ioRead
  | .ioWrite _ _ => some .ioWrite
  | .ioReadHold => if ioLatch.isSome then some .ioReadHold else some .idle
  | .ioWriteHold => some .ioWriteHold
  | .outDiskCmd _ | .inDiskStatus | .inDiskData | .outDiskData _ | .outDiskFname _ | .outSeekLo _ | .outSeekMid _
  | .outSeekHi _ | .outDmaLo _ | .outDmaHi _ | .outDiskBlock _ | .inDiskBlock | .outConCtrl _ | .inConStatus | .inConData
  | .outConData _ | .inUnmapped _ | .outUnmapped _ _ | .openRead | .create | .openAppend | .seekToStart | .close
  | .listDirectory | .openReadwrite | .seek | .cmdReserved _ | .blockRead | .blockWrite | .blkReserved _ => none

/-- A step goes on: neither a fault nor a refusal. -/
def goesOn (s : State) : Prop := ∃ t, step s = .next t

end Sys2Proof.Machine
end

