-- ==== Sys2Proof/Certificates/Slice0/Obligations.lean ====
section
/-! DEFINITION. The statements for the provers, in the order of OBLIGATIONS.json. Each is about every state unless it names
its premises; where a statement rests on a choice of the model's its docstring says so. -/

open Sys2Proof Sys2Proof.Machine

/-! The bus-cycle classes -/

/-- R94, Semantics: the sampled address is read and driven, the latch is cleared, nothing else changes. -/
def Obligations.MemoryReadDrivesTheByte : Prop :=
  ∀ (a : Addr) (s : State), ∃ t, exec (.memoryRead a) s = .next t
    ∧ t.dataDrive = some (memRead s a.toNat) ∧ t.ioLatch = none
    ∧ serviceFrame s t ∧ sameMemory s t ∧ sameDevices s t

/-- R95, Semantics, with R60: the written byte is what the address reads as, every other address reads as before. -/
def Obligations.MemoryWriteStoresOneByte : Prop :=
  ∀ (a : Addr) (v : Byte) (s : State), ∃ t, exec (.memoryWrite a v) s = .next t
    ∧ memRead t a.toNat = v
    ∧ (∀ b, b % Config.memSize ≠ a.toNat → memRead t b = memRead s b)
    ∧ drivesNothing s t ∧ serviceFrame s t ∧ sameDevices s t

/-- R98 and R99, Semantics: the three Idle rows and a held write only clear the latch. -/
def Obligations.IdleAndWriteHoldOnlyClearTheLatch : Prop :=
  ∀ i ∈ [Instr.idleMemNostrobe, .idleNorequest, .idleIoNostrobe, .ioWriteHold], ∀ s : State,
    ∃ t, exec i s = .next t
      ∧ drivesNothing s t ∧ serviceFrame s t ∧ sameMemory s t ∧ sameDevices s t

/-- R99, Semantics, and R71's last sentence: a held read drives the latched byte again and keeps it; with no byte latched it is
Idle; no port rule runs either way. What becomes of the latch when holds do not drive is the model's choice (log 9) and is
not stated. -/
def Obligations.ReadHoldDrivesTheLatchedByteAgain : Prop :=
  ∀ s : State, ∃ t, exec .ioReadHold s = .next t
    ∧ serviceFrame s t ∧ sameMemory s t ∧ sameDevices s t
    ∧ (∀ b, s.ioLatch = some b → s.cfg.ioReadHoldDrive = true → drives t b)
    ∧ (s.ioLatch = none → drivesNothing s t)
    ∧ (s.cfg.ioReadHoldDrive = false → t.dataDrive = s.dataDrive)

/-- R96, with R72: an IoRead is the port operation its port selects; it drives and latches the byte that operation returns, and
touches no memory. The port is the low byte of the address, so two addresses with one low byte do the same. -/
def Obligations.IoReadRunsItsPortOperation : Prop :=
  ∀ (a : Addr) (s : State), ∃ t b, exec (.ioRead a) s = .next t
    ∧ exec (decodePort s.cfg false (portOf a) 0#8) s = .next t
    ∧ drives t b ∧ serviceFrame s t ∧ sameMemory s t
    ∧ (portOf a).toNat = a.toNat % 256
    ∧ (∀ a' : Addr, a'.toNat % 256 = a.toNat % 256 → exec (.ioRead a') s = .next t)

/-- R97, with R72: an IoWrite is the port operation its port selects; the data drive stays as it was and the latch is cleared.
The port is the low byte of the address, so two addresses with one low byte do the same. -/
def Obligations.IoWriteRunsItsPortOperation : Prop :=
  ∀ (a : Addr) (v : Byte) (s : State), ∃ t, exec (.ioWrite a v) s = .next t
    ∧ exec (decodePort s.cfg true (portOf a) v) s = .next t
    ∧ drivesNothing s t ∧ serviceFrame s t
    ∧ (portOf a).toNat = a.toNat % 256
    ∧ (∀ a' : Addr, a'.toNat % 256 = a.toNat % 256 → exec (.ioWrite a' v) s = .next t)

/-- R102: which accesses are unmapped, and that they change no state and set no error; a read drives `UNMAPPED_READ`, 0xFF in
the reference parameters, under which 0x80 has both directions mapped, the write-only ports no read role and the disk status
port no write role. -/
def Obligations.UnmappedPortAccessChangesNothing : Prop :=
  (∀ (c : Params) (p : Port), (decodePortIn c p = .unmapped ↔ p ∉ c.readPorts)
      ∧ (decodePortOut c p = .unmapped ↔ p ∉ c.writePorts))
  ∧ (∀ (p : Port) (s : State), ∃ t, exec (.inUnmapped p) s = .next t
      ∧ drives t s.cfg.unmappedRead ∧ serviceFrame s t ∧ sameMemory s t ∧ sameDevices s t)
  ∧ (∀ (p : Port) (v : Byte) (s : State), ∃ t, exec (.outUnmapped p v) s = .next t
      ∧ drivesNothing s t ∧ serviceFrame s t ∧ sameMemory s t ∧ sameDevices s t)
  ∧ Params.reference.unmappedRead = 0xFF#8
  ∧ 0x80#8 ∈ Params.reference.readPorts ∧ 0x80#8 ∈ Params.reference.writePorts
  ∧ decodePortOut Params.reference 0x11#8 = .unmapped
  ∧ (∀ p ∈ [0x10#8, 0x13#8, 0x14#8, 0x15#8, 0x16#8, 0x17#8, 0x19#8], decodePortIn Params.reference p = .unmapped)

/-! The console -/

/-- R110, Semantics: the whole control byte is stored; the interrupt line and the status flags stay as they are. -/
def Obligations.ConsoleControlWriteStoresTheByte : Prop :=
  ∀ (v : Byte) (s : State), ∃ t, exec (.outConCtrl v) s = .next t
    ∧ t.con = { s.con with ctrl := v } ∧ rie t = v.getLsbD s.cfg.cctlRie.val
    ∧ t.conIn = s.conIn ∧ t.conOut = s.conOut ∧ t.disk = s.disk ∧ t.files = s.files
    ∧ drivesNothing s t ∧ serviceFrame s t ∧ sameMemory s t

/-- R111 and R78: the status byte shows receive-ready and transmit-empty at their bits; the read changes no state. With the
reference positions, no fixed bit set and transmit-empty set it is 0x02 or 0x03. That for any other choice of the two positions
the bits off them are those of `CSTAT_FIXED` is the model's reading (log 22): R111 writes the mask 0xFC of the reference
positions. -/
def Obligations.ConsoleStatusReadShowsTheFlags : Prop :=
  ∀ s : State, s.cfg.cstatRdrf ≠ s.cfg.cstatTdre →
    ∃ t b, exec .inConStatus s = .next t ∧ drives t b
      ∧ b.getLsbD s.cfg.cstatRdrf.val = s.con.rxReady ∧ b.getLsbD s.cfg.cstatTdre.val = s.con.tdre
      ∧ (∀ j < 8, j ≠ s.cfg.cstatRdrf.val → j ≠ s.cfg.cstatTdre.val → b.getLsbD j = s.cfg.cstatFixed.getLsbD j)
      ∧ (s.cfg.cstatRdrf = 0 → s.cfg.cstatTdre = 1 → s.cfg.cstatFixed = 0x00#8 → s.con.tdre = true →
          b = if s.con.rxReady then 0x03#8 else 0x02#8)
      ∧ serviceFrame s t ∧ sameMemory s t ∧ sameDevices s t

/-- R112, Semantics: without receive-ready the stored byte is returned and nothing is taken; with it the oldest pending byte is
taken, stored and returned, and receive-ready falls. The interrupt line is in the service frame. -/
def Obligations.ConsoleDataReadTakesOneByte : Prop :=
  (∀ s : State, s.con.rxReady = false → ∃ t, exec .inConData s = .next t
      ∧ drives t s.con.rxData ∧ sameDevices s t ∧ serviceFrame s t ∧ sameMemory s t)
  ∧ (∀ (s : State) (b : Byte) (rest : List Byte), s.con.rxReady = true → s.conIn = b :: rest →
      ∃ t, exec .inConData s = .next t
        ∧ drives t b ∧ t.con = { s.con with rxData := b, rxReady := false } ∧ t.conIn = rest ∧ t.conOut = s.conOut
        ∧ t.disk = s.disk ∧ t.files = s.files ∧ serviceFrame s t ∧ sameMemory s t)

/-- R113, Semantics: exactly the byte written is sent, once, whatever the flags; transmit-empty is set. -/
def Obligations.ConsoleDataWriteSendsOneByte : Prop :=
  ∀ (v : Byte) (s : State), ∃ t, exec (.outConData v) s = .next t
    ∧ t.conOut = s.conOut ++ [v] ∧ t.con = { s.con with txData := v, tdre := true } ∧ t.conIn = s.conIn
    ∧ t.disk = s.disk ∧ t.files = s.files ∧ drivesNothing s t ∧ serviceFrame s t ∧ sameMemory s t

/-! The disk controller's ports -/

/-- R120 and R76: the status byte shows data-available, error and ready at their bits and 0 elsewhere; ready is the complement
of error; the read changes no state. Data is available when a listing is open or a readable handle has bytes left. With the
reference positions the byte is one of 0x01, 0x81, 0x02, 0x82. -/
def Obligations.DiskStatusReadShowsTheFlags : Prop :=
  ∀ s : State, [s.cfg.dstatReady, s.cfg.dstatError, s.cfg.dstatData].Nodup →
    ∃ t b, exec .inDiskStatus s = .next t ∧ drives t b
      ∧ (b.getLsbD s.cfg.dstatData.val = true ↔ (s.disk.dir ≠ none ∨
          ∃ h, s.disk.file = some h ∧ (h.mode = .r ∨ h.mode = .rw) ∧ h.pos < fsLen s h.name))
      ∧ b.getLsbD s.cfg.dstatError.val = s.disk.error ∧ b.getLsbD s.cfg.dstatReady.val = !s.disk.error
      ∧ (∀ j < 8, j ≠ s.cfg.dstatData.val → j ≠ s.cfg.dstatError.val → j ≠ s.cfg.dstatReady.val → b.getLsbD j = false)
      ∧ (s.cfg.dstatReady = 0 → s.cfg.dstatError = 1 → s.cfg.dstatData = 7 →
          b ∈ [0x01#8, 0x81#8, 0x02#8, 0x82#8])
      ∧ serviceFrame s t ∧ sameMemory s t ∧ sameDevices s t

/-- R121, Semantics: a zero commits; a byte after a commit starts a new name; a byte is appended while there is room, else
dropped. Nothing but the accumulator changes, the error bit least of all. -/
def Obligations.FnameWriteFillsTheAccumulator : Prop :=
  ∀ (v : Byte) (s : State), ∃ t, exec (.outDiskFname v) s = .next t
    ∧ t.disk = { s.disk with fname := t.disk.fname, fnameCommitted := t.disk.fnameCommitted }
    ∧ (v = 0x00#8 → t.disk.fname = s.disk.fname ∧ t.disk.fnameCommitted = true)
    ∧ (v ≠ 0x00#8 → s.disk.fnameCommitted = true → t.disk.fname = [v] ∧ t.disk.fnameCommitted = false)
    ∧ (v ≠ 0x00#8 → s.disk.fnameCommitted = false → s.disk.fname.length < s.cfg.fnameMax →
        t.disk.fname = s.disk.fname ++ [v] ∧ t.disk.fnameCommitted = false)
    ∧ (v ≠ 0x00#8 → s.disk.fnameCommitted = false → s.cfg.fnameMax ≤ s.disk.fname.length →
        t.disk.fname = s.disk.fname ∧ t.disk.fnameCommitted = false)
    ∧ t.files = s.files ∧ diskWriteFrame s t

/-- R122, R123, R124: each seek port replaces its byte of the 24-bit register, which is the concatenation of the three; no
position moves and no error is touched, with a file open or not. The encoding clause is under parameters the spec allows. -/
def Obligations.SeekPortsReplaceOneByte : Prop :=
  ∀ (v : Byte) (s : State),
    (∃ t, exec (.outSeekLo v) s = .next t ∧ t.disk = { s.disk with seekLo := v }
      ∧ (seekPosition t.disk).toNat = v.toNat + 256 * s.disk.seekMid.toNat + 65536 * s.disk.seekHi.toNat
      ∧ t.files = s.files ∧ diskWriteFrame s t)
    ∧ (∃ t, exec (.outSeekMid v) s = .next t ∧ t.disk = { s.disk with seekMid := v }
      ∧ (seekPosition t.disk).toNat = s.disk.seekLo.toNat + 256 * v.toNat + 65536 * s.disk.seekHi.toNat
      ∧ t.files = s.files ∧ diskWriteFrame s t)
    ∧ (∃ t, exec (.outSeekHi v) s = .next t ∧ t.disk = { s.disk with seekHi := v }
      ∧ (seekPosition t.disk).toNat = s.disk.seekLo.toNat + 256 * s.disk.seekMid.toNat + 65536 * v.toNat
      ∧ t.files = s.files ∧ diskWriteFrame s t)
    ∧ (s.cfg.valid = true → decodePort s.cfg true s.cfg.portSeekLo v = .outSeekLo v
      ∧ decodePort s.cfg true s.cfg.portSeekMid v = .outSeekMid v
      ∧ decodePort s.cfg true s.cfg.portSeekHi v = .outSeekHi v)

/-- R125, R126: each DMA port replaces its byte of the 16-bit register; nothing is transferred and no error is touched. -/
def Obligations.DmaPortsReplaceOneByte : Prop :=
  ∀ (v : Byte) (s : State),
    (∃ t, exec (.outDmaLo v) s = .next t ∧ t.disk = { s.disk with dmaLo := v }
      ∧ (dmaAddress t.disk).toNat = v.toNat + 256 * s.disk.dmaHi.toNat ∧ t.files = s.files ∧ diskWriteFrame s t)
    ∧ (∃ t, exec (.outDmaHi v) s = .next t ∧ t.disk = { s.disk with dmaHi := v }
      ∧ (dmaAddress t.disk).toNat = s.disk.dmaLo.toNat + 256 * v.toNat ∧ t.files = s.files ∧ diskWriteFrame s t)
    ∧ (s.cfg.valid = true → decodePort s.cfg true s.cfg.portDmaLo v = .outDmaLo v
      ∧ decodePort s.cfg true s.cfg.portDmaHi v = .outDmaHi v)

/-- R127, Semantics, and R133: with a cursor open a data read delivers the entry's next byte; the last byte of an entry moves to
the next entry with its terminator, the last byte of the last entry releases the cursor and clears the error bit. The file
handle and the store are untouched. -/
def Obligations.DataReadServesAnOpenListing : Prop :=
  ∀ (s : State) (k : Cursor), s.disk.dir = some k → ∃ t, exec .inDiskData s = .next t
    ∧ drives t k.curHead
    ∧ (∀ b l, k.curTail = b :: l →
        t.disk = { s.disk with dir := some { curHead := b, curTail := l, rest := k.rest } })
    ∧ (∀ e l, k.curTail = [] → k.rest = e :: l →
        ∃ k', t.disk = { s.disk with dir := some k' } ∧ k'.curHead :: k'.curTail = e ++ s.cfg.lineTerm ∧ k'.rest = l)
    ∧ (k.curTail = [] → k.rest = [] → t.disk = { s.disk with dir := none, error := false })
    ∧ t.files = s.files ∧ serviceFrame s t ∧ sameMemory s t ∧ sameConsole s t

/-- R128, Semantics: with no cursor open a data read delivers the byte at the position of a readable handle with bytes left and
moves the position by one, the error bit as it was; a collaborator failure sets the error bit and delivers
`DISK_DATA_EMPTY`; with nothing deliverable it delivers that byte and changes nothing. -/
def Obligations.DataReadServesTheFile : Prop :=
  ∀ s : State, s.disk.dir = none →
    (∀ h, s.disk.file = some h → (h.mode = .r ∨ h.mode = .rw) → h.pos < fsLen s h.name → s.draws.fsFault = false →
      ∃ t b, exec .inDiskData s = .next t ∧ (fsContents s h.name)[h.pos]? = some b ∧ drives t b
        ∧ t.disk = { s.disk with file := some { h with pos := h.pos + 1 } }
        ∧ t.files = s.files ∧ serviceFrame s t ∧ sameMemory s t ∧ sameConsole s t)
    ∧ (∀ h, s.disk.file = some h → (h.mode = .r ∨ h.mode = .rw) → h.pos < fsLen s h.name → s.draws.fsFault = true →
      ∃ t, exec .inDiskData s = .next t ∧ drives t s.cfg.diskDataEmpty ∧ t.disk = { s.disk with error := true }
        ∧ t.files = s.files ∧ serviceFrame s t ∧ sameMemory s t ∧ sameConsole s t)
    ∧ ((∀ h, s.disk.file = some h → h.mode = .w ∨ fsLen s h.name ≤ h.pos) →
      ∃ t, exec .inDiskData s = .next t ∧ drives t s.cfg.diskDataEmpty
        ∧ serviceFrame s t ∧ sameMemory s t ∧ sameDevices s t)

/-- R129, Semantics: a data write through a handle that allows it stores the byte at the position, zero-filling a gap, and moves
the position by one, the error bit as it was; against the mode or on a collaborator failure only the error bit changes; with no
handle nothing does. -/
def Obligations.DataWriteStoresOneFileByte : Prop :=
  ∀ (v : Byte) (s : State),
    (∀ h, s.disk.file = some h → (s.cfg.modeStrict = true → h.mode ≠ .r) → s.draws.fsFault = false →
      ∃ t, exec (.outDiskData v) s = .next t
        ∧ t.disk = { s.disk with file := some { h with pos := h.pos + 1 } }
        ∧ (∀ i, (fsContents t h.name).getD i 0#8 = if i = h.pos then v else (fsContents s h.name).getD i 0#8)
        ∧ fsLen t h.name = max (fsLen s h.name) (h.pos + 1)
        ∧ (∀ n, n ≠ h.name → t.files.find? n = s.files.find? n) ∧ diskWriteFrame s t)
    ∧ (∀ h, s.disk.file = some h → (s.cfg.modeStrict = true ∧ h.mode = .r) ∨ s.draws.fsFault = true →
      ∃ t, exec (.outDiskData v) s = .next t
        ∧ t.disk = { s.disk with error := true } ∧ t.files = s.files ∧ diskWriteFrame s t)
    ∧ (s.disk.file = none → ∃ t, exec (.outDiskData v) s = .next t
        ∧ t.disk = s.disk ∧ t.files = s.files ∧ diskWriteFrame s t)

/-- R130: a read of the block port drives the last block result and changes no state; it is reached by an IoRead of
`PORT_DISK_BLOCK`; only a write that runs a block operation or a reserved block byte changes the result, no command does; at
reset it is 0x00. -/
def Obligations.BlockResultReadShowsTheResult : Prop :=
  (∀ s : State, ∃ t, exec .inDiskBlock s = .next t ∧ drives t s.disk.blkResult
    ∧ serviceFrame s t ∧ sameMemory s t ∧ sameDevices s t)
  ∧ (∀ c : Params, c.valid = true → decodePort c false c.portDiskBlock 0x00#8 = .inDiskBlock)
  ∧ (∀ (i : Instr) (s t : State), exec i s = .next t → t.disk.blkResult ≠ s.disk.blkResult →
      leaf s.cfg i = .blockRead ∨ leaf s.cfg i = .blockWrite ∨ ∃ v, leaf s.cfg i = .blkReserved v)
  ∧ State.reset.disk.blkResult = 0x00#8

/-- R131: a command write is the command its byte names; it writes `last_cmd`, whatever becomes of the command, and never
`blk_result`. -/
def Obligations.CommandWriteRunsItsCommand : Prop :=
  ∀ (v : Byte) (s : State), ∃ t, exec (.outDiskCmd v) s = .next t
    ∧ exec ((decodeCmd s.cfg v).toInstr v) s = .next t
    ∧ t.disk.lastCmd = v ∧ t.disk.blkResult = s.disk.blkResult ∧ drivesNothing s t ∧ serviceFrame s t

/-- R132: a block-port write is the block operation its byte names; it leaves `last_cmd`. -/
def Obligations.BlockWritePortRunsItsOperation : Prop :=
  ∀ (v : Byte) (s : State), ∃ t, exec (.outDiskBlock v) s = .next t
    ∧ (v = 0x00#8 → exec .blockRead s = .next t) ∧ (v = 0x01#8 → exec .blockWrite s = .next t)
    ∧ (v ≠ 0x00#8 → v ≠ 0x01#8 → exec (.blkReserved v) s = .next t)
    ∧ t.disk.lastCmd = s.disk.lastCmd ∧ drivesNothing s t ∧ serviceFrame s t

/-! The commands -/

/-- R141: with no committed name an open-class command changes nothing but the error bit and `last_cmd`. -/
def Obligations.OpenWithoutACommittedNameOnlySetsError : Prop :=
  ∀ s : State, s.disk.fnameCommitted = false →
    ∀ x ∈ [(Instr.openRead, s.cfg.cmdOpenRead), (.create, s.cfg.cmdCreate), (.openAppend, s.cfg.cmdOpenAppend),
        (.openReadwrite, s.cfg.cmdOpenReadwrite)],
      ∃ t, exec x.1 s = .next t ∧ t.disk = { s.disk with lastCmd := x.2, error := true }
        ∧ t.files = s.files ∧ diskWriteFrame s t

/-- R141, R142, R144, R148: an open of an existing file makes the new handle with the command's mode and position, consumes the
name, clears the error bit, and touches neither the cursor nor the store. -/
def Obligations.OpenOfAnExistingFileSucceeds : Prop :=
  ∀ s : State, s.disk.fnameCommitted = true → s.disk.fname ≠ [] → fsExists s s.disk.fname = true →
    s.draws.fsFault = false →
    ∀ x ∈ [(Instr.openRead, s.cfg.cmdOpenRead, AccessMode.r, 0),
        (.openAppend, s.cfg.cmdOpenAppend, .w, fsLen s s.disk.fname),
        (.openReadwrite, s.cfg.cmdOpenReadwrite, .rw, 0)],
      ∃ t, exec x.1 s = .next t
        ∧ t.disk = { s.disk with
            lastCmd := x.2.1, fname := [], fnameCommitted := false, error := false
            file := some { name := s.disk.fname, mode := x.2.2.1, pos := x.2.2.2 } }
        ∧ t.files = s.files ∧ diskWriteFrame s t

/-- R141: an open that the collaborator fails, or whose file is absent or whose name is empty, consumes the name, sets the error
bit and keeps the handle, the cursor and the store; so does CREATE with the empty name. The premise that the open handle's file
exists is part of the invariant `file_exists`. -/
def Obligations.FailedOpenKeepsTheHandle : Prop :=
  ∀ s : State, s.disk.fnameCommitted = true →
    (∀ h, s.disk.file = some h → fsExists s h.name = true) →
    ∀ x ∈ [(Instr.openRead, s.cfg.cmdOpenRead), (.openAppend, s.cfg.cmdOpenAppend),
        (.openReadwrite, s.cfg.cmdOpenReadwrite), (.create, s.cfg.cmdCreate)],
      (s.disk.fname = [] ∨ (x.1 ≠ .create ∧ (s.draws.fsFault = true ∨ fsExists s s.disk.fname = false))) →
      ∃ t, exec x.1 s = .next t
        ∧ t.disk = { s.disk with lastCmd := x.2, fname := [], fnameCommitted := false, error := true }
        ∧ t.files = s.files ∧ diskWriteFrame s t

/-- R143 with R141: CREATE leaves an empty file under the name whatever it held, every other file as it was, and a
write handle at 0. -/
def Obligations.CreateMakesAnEmptyFile : Prop :=
  ∀ s : State, s.disk.fnameCommitted = true → s.disk.fname ≠ [] → s.draws.fsFault = false →
    ∃ t, exec .create s = .next t
      ∧ t.files.find? s.disk.fname = some [] ∧ (∀ n, n ≠ s.disk.fname → t.files.find? n = s.files.find? n)
      ∧ t.disk = { s.disk with
          lastCmd := s.cfg.cmdCreate, fname := [], fnameCommitted := false, error := false
          file := some { name := s.disk.fname, mode := .w, pos := 0 } }
      ∧ diskWriteFrame s t

/-- R143 with R141, D42: a failed CREATE removes the old file exactly when the draw says so, and closes the surviving handle
exactly when its file is gone; the name is consumed and the error bit set. -/
def Obligations.FailedCreateMayRemoveTheOldFile : Prop :=
  ∀ s : State, s.files.wf = true → s.disk.fnameCommitted = true → s.disk.fname ≠ [] → s.draws.fsFault = true →
    ∃ t, exec .create s = .next t
      ∧ t.files.find? s.disk.fname = (if s.draws.removed then none else s.files.find? s.disk.fname)
      ∧ (∀ n, n ≠ s.disk.fname → t.files.find? n = s.files.find? n)
      ∧ t.disk = { s.disk with
          lastCmd := s.cfg.cmdCreate, fname := [], fnameCommitted := false, error := true, file := t.disk.file }
      ∧ (s.disk.file = none → t.disk.file = none)
      ∧ (∀ h, s.disk.file = some h → t.disk.file = if fsExists t h.name then some h else none)
      ∧ diskWriteFrame s t

/-- R145: SEEK_TO_START moves the position to 0, with its two errors. -/
def Obligations.SeekToStartResetsThePosition : Prop :=
  ∀ s : State,
    (∀ h, s.disk.file = some h → s.draws.fsFault = false → ∃ t, exec .seekToStart s = .next t
      ∧ t.disk = { s.disk with lastCmd := s.cfg.cmdSeekToStart, file := some { h with pos := 0 }, error := false }
      ∧ t.files = s.files ∧ diskWriteFrame s t)
    ∧ (s.disk.file = none ∨ s.draws.fsFault = true → ∃ t, exec .seekToStart s = .next t
      ∧ t.disk = { s.disk with lastCmd := s.cfg.cmdSeekToStart, error := true }
      ∧ t.files = s.files ∧ diskWriteFrame s t)
    ∧ (s.cfg.valid = true → decodeCmd s.cfg s.cfg.cmdSeekToStart = .seekToStart)

/-- R149: SEEK moves the position to `seek_lo + 256 * seek_mid + 65536 * seek_hi`, the end of the file or not, with its two
errors; the register keeps its value. -/
def Obligations.SeekMovesToTheRegister : Prop :=
  ∀ s : State,
    (∀ h, s.disk.file = some h → s.draws.fsFault = false → ∃ t, exec .seek s = .next t
      ∧ t.disk = { s.disk with
          lastCmd := s.cfg.cmdSeek, error := false
          file := some { h with
            pos := s.disk.seekLo.toNat + 256 * s.disk.seekMid.toNat + 65536 * s.disk.seekHi.toNat } }
      ∧ t.files = s.files ∧ diskWriteFrame s t)
    ∧ (s.disk.file = none ∨ s.draws.fsFault = true → ∃ t, exec .seek s = .next t
      ∧ t.disk = { s.disk with lastCmd := s.cfg.cmdSeek, error := true }
      ∧ t.files = s.files ∧ diskWriteFrame s t)
    ∧ (s.cfg.valid = true → decodeCmd s.cfg s.cfg.cmdSeek = .seek)

/-- R146: CLOSE in any state closes handle and cursor and clears the error bit, leaving the name, `seek`, `dma`, `blk_result` and
the store; the status read that follows shows ready, no error, no data. -/
def Obligations.CloseAlwaysYieldsIdleAndReady : Prop :=
  ∀ s : State, ∃ t, exec .close s = .next t
    ∧ t.disk = { s.disk with lastCmd := s.cfg.cmdClose, file := none, dir := none, error := false }
    ∧ ready t = true ∧ dataAvailable t = false ∧ t.files = s.files ∧ diskWriteFrame s t
    ∧ (s.cfg.valid = true → decodeCmd s.cfg s.cfg.cmdClose = .close)

/-- R147, Semantics, with R12's law of `fs_list()`: the new cursor stands at the first of the entries, which are the names of
the store but `"."` and `".."` in some order, the collaborator's where its answer is one (log 5); with no entry there is no
cursor; a collaborator failure only sets the error bit. -/
def Obligations.ListDirectoryOpensACursor : Prop :=
  ∀ s : State,
    (s.draws.fsFault = false → ∃ t L, exec .listDirectory s = .next t
      ∧ L.Perm (s.files.names.filter (fun n => !isDotName n))
      ∧ (listingAllowed s.files s.draws.listing = true → L = s.draws.listing.filter (fun n => !isDotName n))
      ∧ t.disk = { s.disk with lastCmd := s.cfg.cmdListDirectory, dir := t.disk.dir, error := false }
      ∧ (L = [] → t.disk.dir = none)
      ∧ (∀ e l, L = e :: l → ∃ k, t.disk.dir = some k ∧ k.curHead :: k.curTail = e ++ s.cfg.lineTerm ∧ k.rest = l)
      ∧ t.files = s.files ∧ diskWriteFrame s t)
    ∧ (s.draws.fsFault = true → ∃ t, exec .listDirectory s = .next t
      ∧ t.disk = { s.disk with lastCmd := s.cfg.cmdListDirectory, error := true }
      ∧ t.files = s.files ∧ diskWriteFrame s t)

/-- R83 and R127: after a LIST_DIRECTORY, reads of the data port deliver, for the entries in order, each name followed by
`LINE_TERM` and nothing else; the cursor is open before every one of these reads and released, with no error, by the last. -/
def Obligations.ListingDeliversEveryEntry : Prop :=
  ∀ s t : State, s.draws.fsFault = false → exec .listDirectory s = .next t →
    let stream := (listable (fsList s)).flatMap (fun n => n ++ s.cfg.lineTerm)
    (readDiskData stream.length t).1 = stream.map some
      ∧ (readDiskData stream.length t).2.disk = { t.disk with dir := none, error := false }
      ∧ (∀ n < stream.length, (readDiskData n t).2.disk.dir.isSome = true)

/-- R152: a reserved command byte sets the error bit and `last_cmd` and nothing else; the reserved bytes are those that name no
command, with the reference codes 0x00 and 0x09 to 0xFF. -/
def Obligations.ReservedCommandOnlySetsError : Prop :=
  (∀ (v : Byte) (s : State), ∃ t, exec (.cmdReserved v) s = .next t
    ∧ t.disk = { s.disk with lastCmd := v, error := true } ∧ t.files = s.files ∧ diskWriteFrame s t)
  ∧ (∀ v : Byte, decodeCmd Params.reference v = .reserved ↔ (v = 0x00#8 ∨ 9 ≤ v.toNat))
  ∧ (∀ (c : Params) (v : Byte), decodeCmd c v = .reserved ↔ v ∉ c.cmdCodes)

/-- R153: a reserved block byte, 0x02 to 0xFF, sets the error bit and the result to failure and moves nothing. -/
def Obligations.ReservedBlockByteFails : Prop :=
  (∀ (v : Byte) (s : State), ∃ t, exec (.blkReserved v) s = .next t
    ∧ t.disk = { s.disk with blkResult := s.cfg.blockFail, error := true } ∧ t.files = s.files ∧ diskWriteFrame s t)
  ∧ (∀ v : Byte, decodeBlk v = .reserved ↔ 2 ≤ v.toNat)

/-! The block operations -/

/-- R150: a block read through a handle that allows it puts exactly a quantum at `dma`, wrapping, the bytes of the file from the
position and zero bytes after its end; every other byte of memory reads as before; the position moves by the quantum, or by the
bytes found under the other value of the parameter; the result is success. -/
def Obligations.BlockReadMovesAQuantum : Prop :=
  ∀ (s : State) (h : Handle), s.disk.file = some h → s.cfg.quantum ≤ Config.memSize →
    (s.cfg.modeStrict = true → h.mode ≠ .w) → s.draws.fsFault = false →
    ∃ t, exec .blockRead s = .next t
      ∧ (∀ i < s.cfg.quantum,
          memRead t ((dmaAddress s.disk).toNat + i) = (fsContents s h.name).getD (h.pos + i) 0x00#8)
      ∧ (∀ a, (∀ i < s.cfg.quantum, a % Config.memSize ≠ ((dmaAddress s.disk).toNat + i) % Config.memSize) →
          memRead t a = memRead s a)
      ∧ t.disk = { s.disk with
          blkResult := 0x00#8, error := false
          file := some { h with
            pos := h.pos + match s.cfg.eofReadAdvance with
              | .quantum => s.cfg.quantum
              | .actual => min s.cfg.quantum (fsLen s h.name - h.pos) } }
      ∧ t.files = s.files ∧ sameConsole s t ∧ drivesNothing s t ∧ serviceFrame s t

/-- R151: a block write through a handle that allows it stores the quantum at `dma` from the position on, zero-filling a gap and
lengthening the file where needed; every other byte of the file and every other file is as before, memory too; the position
moves by the quantum; the result is success. -/
def Obligations.BlockWriteMovesAQuantum : Prop :=
  ∀ (s : State) (h : Handle), s.disk.file = some h →
    (s.cfg.modeStrict = true → h.mode ≠ .r) → s.draws.fsFault = false →
    ∃ t, exec .blockWrite s = .next t
      ∧ (∀ i < s.cfg.quantum,
          (fsContents t h.name)[h.pos + i]? = some (memRead s ((dmaAddress s.disk).toNat + i)))
      ∧ (∀ j, (j < h.pos ∨ h.pos + s.cfg.quantum ≤ j) →
          (fsContents t h.name).getD j 0x00#8 = (fsContents s h.name).getD j 0x00#8)
      ∧ fsLen t h.name = max (fsLen s h.name) (h.pos + s.cfg.quantum)
      ∧ (∀ n, n ≠ h.name → t.files.find? n = s.files.find? n)
      ∧ t.disk = { s.disk with
          blkResult := 0x00#8, error := false, file := some { h with pos := h.pos + s.cfg.quantum } }
      ∧ diskWriteFrame s t

/-- R150, R151: a block operation with no file open, against the handle's mode, or failed by the collaborator, sets the error bit
and the result to failure and leaves memory, the store, the position and `dma`. -/
def Obligations.FailedBlockOperationMovesNothing : Prop :=
  ∀ (s : State), ∀ x ∈ [(Instr.blockRead, AccessMode.w), (.blockWrite, .r)],
    (s.disk.file = none ∨ s.draws.fsFault = true
      ∨ (s.cfg.modeStrict = true ∧ ∃ h, s.disk.file = some h ∧ h.mode = x.2)) →
    ∃ t, exec x.1 s = .next t ∧ t.disk = { s.disk with blkResult := s.cfg.blockFail, error := true }
      ∧ t.files = s.files ∧ diskWriteFrame s t

/-- R60 with R150, R151: what a block write stored, a block read of the same file at the same position through any readable
handle brings back, in whatever state it happens as long as the store is still the same. -/
def Obligations.BlockReadReturnsWhatBlockWriteStored : Prop :=
  ∀ (s t u : State) (h k : Handle), s.disk.file = some h → (s.cfg.modeStrict = true → h.mode ≠ .r) →
    s.draws.fsFault = false → s.cfg.quantum ≤ Config.memSize → exec .blockWrite s = .next t →
    u.files = t.files → u.cfg = s.cfg → u.disk.file = some k → k.name = h.name → k.pos = h.pos → k.mode ≠ .w →
    u.draws.fsFault = false →
    ∃ w, exec .blockRead u = .next w ∧ w.disk.blkResult = 0x00#8
      ∧ ∀ i < s.cfg.quantum,
          memRead w ((dmaAddress u.disk).toNat + i) = memRead s ((dmaAddress s.disk).toNat + i)

/-! What holds of every operation -/

/-- R6, R96, R97, R131, R132: the two levels of description agree: decoding an instruction one stage further does not change what
it does. -/
def Obligations.ResolvingKeepsTheMeaning : Prop :=
  ∀ (i : Instr) (s : State), exec (resolve s.cfg i) s = exec i s

/-- R134, R164, R165: only the operations of R134's table set or clear the error bit. -/
def Obligations.OnlyTheListedOperationsTouchTheErrorBit : Prop :=
  ∀ (i : Instr) (s t : State), exec i s = .next t →
    (s.disk.error = false → t.disk.error = true → maySetError s (leaf s.cfg i) = true)
    ∧ (s.disk.error = true → t.disk.error = false → mayClearError s (leaf s.cfg i) = true)

/-- R20: of all services only a MemoryWrite and a block read write the Memory Array. -/
def Obligations.OnlyMemoryWriteAndBlockReadWriteMemory : Prop :=
  ∀ (i : Instr) (s t : State), exec i s = .next t → leaf s.cfg i ≠ .blockRead →
    (∀ a v, leaf s.cfg i ≠ .memoryWrite a v) → sameMemory s t

/-- R42, R154: of all services only CREATE, a data-port write and a block write change `files`; of all services only a console
data write sends a byte and only a console data read takes one (R113, R112). -/
def Obligations.OnlyTheListedOperationsReachTheCollaborators : Prop :=
  ∀ (i : Instr) (s t : State), exec i s = .next t →
    (t.files ≠ s.files → leaf s.cfg i = .create ∨ leaf s.cfg i = .blockWrite ∨ ∃ v, leaf s.cfg i = .outDiskData v)
    ∧ (t.conOut ≠ s.conOut → ∃ v, leaf s.cfg i = .outConData v ∧ t.conOut = s.conOut ++ [v])
    ∧ (t.conIn ≠ s.conIn → leaf s.cfg i = .inConData ∧ s.con.rxReady = true ∧ ∃ b, s.conIn = b :: t.conIn)

/-- R34, R35: "Seek position and DMA address persist across commands until explicitly overwritten": no service but a write to
one of the five ports changes them. -/
def Obligations.SeekAndDmaPersist : Prop :=
  ∀ (i : Instr) (s t : State), exec i s = .next t →
    (seekPosition t.disk ≠ seekPosition s.disk →
      ∃ v, leaf s.cfg i = .outSeekLo v ∨ leaf s.cfg i = .outSeekMid v ∨ leaf s.cfg i = .outSeekHi v)
    ∧ (dmaAddress t.disk ≠ dmaAddress s.disk → ∃ v, leaf s.cfg i = .outDmaLo v ∨ leaf s.cfg i = .outDmaHi v)

/-! The tick, the boot stage and the reset -/

/-- R90: in phase `Run`, with no power cycle, a step is the tick: the input taken, steps (a) and (b), the service of the BUS row
that the control lines select, and step (f). -/
def Obligations.StepServicesTheSelectedRow : Prop :=
  ∀ s : State, s.phase = .run → (nextInput s).systemReset = false →
    ∀ t, exec (decodeBus s.prevIorq (nextInput s).sample) (beginTick (takeInput s)) = .next t →
      step s = .next { t with
        clk := false, driven := t.dataDrive, dataDrive := none, prevIorq := (nextInput s).sample.iorq }

/-- R6, R90: a well-formed instruction whose word the processor presents is run by the next step, between steps (a), (b) and (f)
of the tick. The clause "the request line of the previous tick as the word says" is a premise. -/
def Obligations.StepRunsThePresentedInstruction : Prop :=
  ∀ (s : State) (i : Instr) (e : Input) (rest : List Input) (prev : Bool),
    s.cfg.valid = true → i.wf s.cfg = true → s.phase = .run → s.inputs = e :: rest → e.systemReset = false →
    presentWord s.cfg (encode s.cfg i) = some (prev, e.sample) → s.prevIorq = prev →
    ∃ t, exec i (beginTick (takeInput s)) = .next t ∧ step s = .next (endTick e.sample t)

/-- R71: for every control vector exactly one row of the table applies, and it is the one the decoder selects; an IoReadHold
with no byte latched is plain Idle. -/
def Obligations.BusTableSelectsTheRow : Prop :=
  (∀ v : BitVec 5, (busRows.filter (fun r => v &&& r.1 == r.2)).length = 1)
  ∧ (∀ (v : BitVec 5) (a : Addr) (d : Byte),
      (v &&& 0b01010#5 = 0b01010#5 → decodeVector v a d = .memoryRead a)
      ∧ (v &&& 0b01011#5 = 0b01001#5 → decodeVector v a d = .memoryWrite a d)
      ∧ (v &&& 0b01011#5 = 0b01000#5 → decodeVector v a d = .idleMemNostrobe)
      ∧ (v &&& 0b01100#5 = 0b00000#5 → decodeVector v a d = .idleNorequest)
      ∧ (v &&& 0b01111#5 = 0b00100#5 → decodeVector v a d = .idleIoNostrobe)
      ∧ (v &&& 0b11110#5 = 0b00110#5 → decodeVector v a d = .ioRead a)
      ∧ (v &&& 0b11111#5 = 0b00101#5 → decodeVector v a d = .ioWrite a d)
      ∧ (v &&& 0b11110#5 = 0b10110#5 → decodeVector v a d = .ioReadHold)
      ∧ (v &&& 0b11111#5 = 0b10101#5 → decodeVector v a d = .ioWriteHold))
  ∧ ∀ s : State, s.ioLatch = none → exec .ioReadHold s = exec .idleNorequest s

/-- R93 against R71: the classification as the rule writes it is the class of the row the table gives. -/
def Obligations.ClassificationAgreesWithTheTable : Prop :=
  ∀ (S : Sample) (prev : Bool) (latch : Option Byte),
    classOf latch (decodeBus prev S) = some (classify S prev latch)

/-- R101: no sample makes a running bridge fault, stall or stop, and it goes on running until a power cycle. -/
def Obligations.RunningBridgeNeverStops : Prop :=
  ∀ s : State, s.phase = .run → ∃ t, step s = .next t ∧ ((nextInput s).systemReset = false → t.phase = .run)

/-- R100: after every tick the clock line is low, the data drive released and the request line remembered; the bridge drove a
byte only on a tick that classified MemoryRead, IoRead or IoReadHold. The premise is the state between ticks. -/
def Obligations.TickEndsWithTheBusReleased : Prop :=
  ∀ s : State, s.phase = .run → (nextInput s).systemReset = false → s.dataDrive = none →
    ∃ t, step s = .next t ∧ t.clk = false ∧ t.dataDrive = none ∧ t.prevIorq = (nextInput s).sample.iorq
      ∧ (t.driven ≠ none →
          classify (nextInput s).sample s.prevIorq s.ioLatch ∈ [BusClass.memoryRead, .ioRead, .ioReadHold])

/-- R168, R91: the interrupt line after a tick is what input availability and the receive-interrupt enable made it on that same
tick, whatever it was before. Receive-ready after a tick is input availability of that same tick, whatever it was before (so 0
with no input pending), except that a console data read leaves it cleared. -/
def Obligations.InterruptLineTracksTheLiveCondition : Prop :=
  ∀ s : State, s.phase = .run → (nextInput s).systemReset = false →
    ∃ t, step s = .next t
      ∧ (t.intLine = true ↔ (s.conIn ++ (nextInput s).arriving ≠ [] ∧ s.con.ctrl.getLsbD s.cfg.cctlRie.val = true))
      ∧ (leaf s.cfg (decodeBus s.prevIorq (nextInput s).sample) ≠ .inConData →
          (t.con.rxReady = true ↔ s.conIn ++ (nextInput s).arriving ≠ []))
      ∧ (leaf s.cfg (decodeBus s.prevIorq (nextInput s).sample) = .inConData → t.con.rxReady = false)

/-- R93, R99: a request still asserted from the tick before is not serviced again: no port rule runs, nothing is taken, sent,
stored or moved, whatever port and data the lines show. -/
def Obligations.HeldRequestIsNotServicedAgain : Prop :=
  ∀ s : State, s.phase = .run → (nextInput s).systemReset = false → s.prevIorq = true →
    (nextInput s).sample.mreq = false → (nextInput s).sample.iorq = true →
    ∃ t, step s = .next t ∧ t.disk = s.disk ∧ t.files = s.files ∧ sameMemory s t ∧ t.conOut = s.conOut
      ∧ t.conIn = s.conIn ++ (nextInput s).arriving
      ∧ t.con = { s.con with rxReady := !(s.conIn ++ (nextInput s).arriving).isEmpty } ∧ t.prevIorq = true

/-- R180, R182, R44: a boot that the store allows copies the image to address 0 byte for byte, leaves every byte above it, creates
the registers with the values of R44 and releases the processor; the store is as it was. -/
def Obligations.BootLoadsTheImageAndReleases : Prop :=
  ∀ (s : State) (image : List Byte), s.phase = .boot → (nextInput s).systemReset = false →
    (nextInput s).fsInitOk = true → (nextInput s).draws.fsFault = false →
    s.files.find? s.cfg.firmwareName = some image → image.length ≤ Config.memSize →
    ∃ t, step s = .next t
      ∧ (∀ i < image.length, memRead t i = image.getD i 0#8)
      ∧ (∀ a, image.length ≤ a → a < Config.memSize → memRead t a = memRead s a)
      ∧ t.phase = .run ∧ t.resetLine = false ∧ t.clk = false ∧ t.intLine = false ∧ t.dataDrive = none
      ∧ t.prevIorq = false ∧ t.ioLatch = none
      ∧ t.con = { ctrl := 0x00#8, rxReady := false, tdre := true, rxData := 0x00#8, txData := 0x00#8 }
      ∧ t.disk = {
          lastCmd := 0x00#8, fname := [], fnameCommitted := false, file := none, dir := none
          seekHi := 0x00#8, seekMid := 0x00#8, seekLo := 0x00#8, dmaHi := 0x00#8, dmaLo := 0x00#8
          blkResult := 0x00#8, error := false }
      ∧ t.files = s.files ∧ t.conIn = s.conIn ++ (nextInput s).arriving ∧ t.conOut = s.conOut ∧ t.cfg = s.cfg

/-- R181, D35, R180: a store that failed to initialize, a missing image or a failed read halts the bridge before the processor is
released, and in `Halt` no tick runs: the model answers the fault `halted` (log 10). An image that does not fit is refused, under
the model's name `imageTooLong` (log 11). -/
def Obligations.FailedBootHaltsForGood : Prop :=
  (∀ s : State, s.phase = .boot → (nextInput s).systemReset = false →
    ((nextInput s).fsInitOk = false ∨ s.files.find? s.cfg.firmwareName = none ∨ (nextInput s).draws.fsFault = true) →
    ∃ t, step s = .next t ∧ t.phase = .halt ∧ t.resetLine = true ∧ t.clk = false ∧ t.intLine = false
      ∧ t.dataDrive = none)
  ∧ (∀ s : State, s.phase = .halt → (nextInput s).systemReset = false → step s = .fault .halted)
  ∧ (∀ (s : State) (image : List Byte), s.phase = .boot → (nextInput s).systemReset = false →
    (nextInput s).fsInitOk = true → (nextInput s).draws.fsFault = false →
    s.files.find? s.cfg.firmwareName = some image → Config.memSize < image.length → step s = .refused .imageTooLong)

/-- R184: a full system reset in any phase, one step of the model (log 12), is a new power-on: the bridge's state is
created again, an open handle and cursor are dropped, no byte of memory is known (each is the free byte of the new power-on,
log 3), the store and both console streams survive. -/
def Obligations.FullResetIsANewPowerOn : Prop :=
  ∀ s : State, (nextInput s).systemReset = true →
    ∃ t, step s = .next t
      ∧ t.phase = .boot ∧ t.resetLine = true ∧ t.clk = false ∧ t.intLine = false ∧ t.dataDrive = none
      ∧ t.prevIorq = false ∧ t.ioLatch = none ∧ t.con = State.reset.con ∧ t.disk = State.reset.disk
      ∧ (∀ a < Config.memSize, memRead t a = Config.powerOnByte (s.powerOns + 1) a)
      ∧ t.files = s.files ∧ t.conIn = s.conIn ++ (nextInput s).arriving ∧ t.conOut = s.conOut ∧ t.cfg = s.cfg

/-- The invariant holds at power-on. The reset values of the environment's own state (log 7) and of the parameters (log 1) are
the model's choice. -/
def Obligations.ResetMeetsTheInvariant : Prop := Invariant State.reset

/-- Every step, in any phase and under any input of the environment, keeps the invariant. -/
def Obligations.EveryStepKeepsTheInvariant : Prop :=
  ∀ s t : State, Invariant s → step s = .next t → Invariant t

/-! Encodings -/

/-- R70 to R75: for every choice of parameters the spec allows and every well-formed instruction, decoding its encoded word gives
it back, with every operand. The layout of the words in bytes is the model's (log 23). -/
def Obligations.DecodingAnEncodedWordGivesItBack : Prop :=
  ∀ (c : Params) (i : Instr), c.valid = true → i.wf c = true →
    decodeBytes c (encode c i).1 (encode c i).2 = .ok i

/-- R70, R86: the tick with which the processor presents a well-formed instruction's word decodes, stage by stage, to that
instruction as far as it can be decoded. The layout of the words in bytes is the model's (log 23). -/
def Obligations.PresentedTickDecodesToTheInstruction : Prop :=
  ∀ (c : Params) (i : Instr), c.valid = true → i.wf c = true →
    ∃ prev S, presentWord c (encode c i) = some (prev, S) ∧ decodeTick c prev S = leaf c i

/-- Words written out from the tables of R71, R73, R74 and R75, one or two of each format, decode to what the tables name. The
layout of the words in bytes is the model's (log 23). -/
def Obligations.WrittenOutWordsDecode : Prop :=
  decodeBytes Params.reference .bus [0b01001#8, 0x34#8, 0x12#8, 0x5A#8] = .ok (.memoryWrite 0x1234#16 0x5A#8)
  ∧ decodeBytes Params.reference .bus [0b00110#8, 0x11#8, 0x80#8, 0x00#8] = .ok (.ioRead 0x8011#16)
  ∧ decodeBytes Params.reference .port [0x19#8, 0x01#8, 0x77#8] = .ok (.outSeekHi 0x77#8)
  ∧ decodeBytes Params.reference .port [0x80#8, 0x00#8, 0x00#8] = .ok .inConStatus
  ∧ decodeBytes Params.reference .cmd [0x06#8] = .ok .listDirectory
  ∧ decodeBytes Params.reference .cmd [0x09#8] = .ok (.cmdReserved 0x09#8)
  ∧ decodeBytes Params.reference .blk [0x01#8] = .ok .blockWrite

/-! Steps (a) and (b) -/

/-- R91, R92, with R90: what the service of a tick finds. The bytes that arrived stand in `con_in`; step (a) makes receive-ready
input availability and the interrupt line that and the receive-interrupt enable; step (b) raises the clock; nothing else of the
bridge or its environment changes. -/
def Obligations.ServiceStartsFromTheLiveCondition : Prop :=
  ∀ s : State,
    ((beginTick (takeInput s)).con.rxReady = true ↔ s.conIn ++ (nextInput s).arriving ≠ [])
      ∧ ((beginTick (takeInput s)).intLine = true ↔
          (s.conIn ++ (nextInput s).arriving ≠ [] ∧ s.con.ctrl.getLsbD s.cfg.cctlRie.val = true))
      ∧ (beginTick (takeInput s)).con = { s.con with rxReady := (beginTick (takeInput s)).con.rxReady }
      ∧ (beginTick (takeInput s)).conIn = s.conIn ++ (nextInput s).arriving
      ∧ (beginTick (takeInput s)).draws = (nextInput s).draws ∧ (beginTick (takeInput s)).clk = true
      ∧ (beginTick (takeInput s)).phase = s.phase ∧ (beginTick (takeInput s)).prevIorq = s.prevIorq
      ∧ (beginTick (takeInput s)).ioLatch = s.ioLatch ∧ (beginTick (takeInput s)).resetLine = s.resetLine
      ∧ (beginTick (takeInput s)).dataDrive = s.dataDrive ∧ sameMemory s (beginTick (takeInput s))
      ∧ (beginTick (takeInput s)).disk = s.disk ∧ (beginTick (takeInput s)).conOut = s.conOut
      ∧ (beginTick (takeInput s)).files = s.files ∧ (beginTick (takeInput s)).cfg = s.cfg
end

