-- ==== Sys2Proof/Laws/State.lean ====
section
/-! SUPPORT. One lemma per field for each named update of State. -/

namespace Sys2Proof.Machine

section withMem
variable (s : State) (m : Memory)
@[simp] theorem State.withMem_phase : (s.withMem m).phase = s.phase := rfl
@[simp] theorem State.withMem_prevIorq : (s.withMem m).prevIorq = s.prevIorq := rfl
@[simp] theorem State.withMem_ioLatch : (s.withMem m).ioLatch = s.ioLatch := rfl
@[simp] theorem State.withMem_clk : (s.withMem m).clk = s.clk := rfl
@[simp] theorem State.withMem_resetLine : (s.withMem m).resetLine = s.resetLine := rfl
@[simp] theorem State.withMem_intLine : (s.withMem m).intLine = s.intLine := rfl
@[simp] theorem State.withMem_dataDrive : (s.withMem m).dataDrive = s.dataDrive := rfl
@[simp] theorem State.withMem_mem : (s.withMem m).mem = m := rfl
@[simp] theorem State.withMem_con : (s.withMem m).con = s.con := rfl
@[simp] theorem State.withMem_disk : (s.withMem m).disk = s.disk := rfl
@[simp] theorem State.withMem_conIn : (s.withMem m).conIn = s.conIn := rfl
@[simp] theorem State.withMem_conOut : (s.withMem m).conOut = s.conOut := rfl
@[simp] theorem State.withMem_files : (s.withMem m).files = s.files := rfl
@[simp] theorem State.withMem_cfg : (s.withMem m).cfg = s.cfg := rfl
@[simp] theorem State.withMem_inputs : (s.withMem m).inputs = s.inputs := rfl
@[simp] theorem State.withMem_ticks : (s.withMem m).ticks = s.ticks := rfl
@[simp] theorem State.withMem_powerOns : (s.withMem m).powerOns = s.powerOns := rfl
@[simp] theorem State.withMem_draws : (s.withMem m).draws = s.draws := rfl
@[simp] theorem State.withMem_driven : (s.withMem m).driven = s.driven := rfl
end withMem

section withCon
variable (s : State) (c : Console)
@[simp] theorem State.withCon_phase : (s.withCon c).phase = s.phase := rfl
@[simp] theorem State.withCon_prevIorq : (s.withCon c).prevIorq = s.prevIorq := rfl
@[simp] theorem State.withCon_ioLatch : (s.withCon c).ioLatch = s.ioLatch := rfl
@[simp] theorem State.withCon_clk : (s.withCon c).clk = s.clk := rfl
@[simp] theorem State.withCon_resetLine : (s.withCon c).resetLine = s.resetLine := rfl
@[simp] theorem State.withCon_intLine : (s.withCon c).intLine = s.intLine := rfl
@[simp] theorem State.withCon_dataDrive : (s.withCon c).dataDrive = s.dataDrive := rfl
@[simp] theorem State.withCon_mem : (s.withCon c).mem = s.mem := rfl
@[simp] theorem State.withCon_con : (s.withCon c).con = c := rfl
@[simp] theorem State.withCon_disk : (s.withCon c).disk = s.disk := rfl
@[simp] theorem State.withCon_conIn : (s.withCon c).conIn = s.conIn := rfl
@[simp] theorem State.withCon_conOut : (s.withCon c).conOut = s.conOut := rfl
@[simp] theorem State.withCon_files : (s.withCon c).files = s.files := rfl
@[simp] theorem State.withCon_cfg : (s.withCon c).cfg = s.cfg := rfl
@[simp] theorem State.withCon_inputs : (s.withCon c).inputs = s.inputs := rfl
@[simp] theorem State.withCon_ticks : (s.withCon c).ticks = s.ticks := rfl
@[simp] theorem State.withCon_powerOns : (s.withCon c).powerOns = s.powerOns := rfl
@[simp] theorem State.withCon_draws : (s.withCon c).draws = s.draws := rfl
@[simp] theorem State.withCon_driven : (s.withCon c).driven = s.driven := rfl
end withCon

section withDisk
variable (s : State) (d : DiskSession)
@[simp] theorem State.withDisk_phase : (s.withDisk d).phase = s.phase := rfl
@[simp] theorem State.withDisk_prevIorq : (s.withDisk d).prevIorq = s.prevIorq := rfl
@[simp] theorem State.withDisk_ioLatch : (s.withDisk d).ioLatch = s.ioLatch := rfl
@[simp] theorem State.withDisk_clk : (s.withDisk d).clk = s.clk := rfl
@[simp] theorem State.withDisk_resetLine : (s.withDisk d).resetLine = s.resetLine := rfl
@[simp] theorem State.withDisk_intLine : (s.withDisk d).intLine = s.intLine := rfl
@[simp] theorem State.withDisk_dataDrive : (s.withDisk d).dataDrive = s.dataDrive := rfl
@[simp] theorem State.withDisk_mem : (s.withDisk d).mem = s.mem := rfl
@[simp] theorem State.withDisk_con : (s.withDisk d).con = s.con := rfl
@[simp] theorem State.withDisk_disk : (s.withDisk d).disk = d := rfl
@[simp] theorem State.withDisk_conIn : (s.withDisk d).conIn = s.conIn := rfl
@[simp] theorem State.withDisk_conOut : (s.withDisk d).conOut = s.conOut := rfl
@[simp] theorem State.withDisk_files : (s.withDisk d).files = s.files := rfl
@[simp] theorem State.withDisk_cfg : (s.withDisk d).cfg = s.cfg := rfl
@[simp] theorem State.withDisk_inputs : (s.withDisk d).inputs = s.inputs := rfl
@[simp] theorem State.withDisk_ticks : (s.withDisk d).ticks = s.ticks := rfl
@[simp] theorem State.withDisk_powerOns : (s.withDisk d).powerOns = s.powerOns := rfl
@[simp] theorem State.withDisk_draws : (s.withDisk d).draws = s.draws := rfl
@[simp] theorem State.withDisk_driven : (s.withDisk d).driven = s.driven := rfl
end withDisk

section withFiles
variable (s : State) (f : Files)
@[simp] theorem State.withFiles_phase : (s.withFiles f).phase = s.phase := rfl
@[simp] theorem State.withFiles_prevIorq : (s.withFiles f).prevIorq = s.prevIorq := rfl
@[simp] theorem State.withFiles_ioLatch : (s.withFiles f).ioLatch = s.ioLatch := rfl
@[simp] theorem State.withFiles_clk : (s.withFiles f).clk = s.clk := rfl
@[simp] theorem State.withFiles_resetLine : (s.withFiles f).resetLine = s.resetLine := rfl
@[simp] theorem State.withFiles_intLine : (s.withFiles f).intLine = s.intLine := rfl
@[simp] theorem State.withFiles_dataDrive : (s.withFiles f).dataDrive = s.dataDrive := rfl
@[simp] theorem State.withFiles_mem : (s.withFiles f).mem = s.mem := rfl
@[simp] theorem State.withFiles_con : (s.withFiles f).con = s.con := rfl
@[simp] theorem State.withFiles_disk : (s.withFiles f).disk = s.disk := rfl
@[simp] theorem State.withFiles_conIn : (s.withFiles f).conIn = s.conIn := rfl
@[simp] theorem State.withFiles_conOut : (s.withFiles f).conOut = s.conOut := rfl
@[simp] theorem State.withFiles_files : (s.withFiles f).files = f := rfl
@[simp] theorem State.withFiles_cfg : (s.withFiles f).cfg = s.cfg := rfl
@[simp] theorem State.withFiles_inputs : (s.withFiles f).inputs = s.inputs := rfl
@[simp] theorem State.withFiles_ticks : (s.withFiles f).ticks = s.ticks := rfl
@[simp] theorem State.withFiles_powerOns : (s.withFiles f).powerOns = s.powerOns := rfl
@[simp] theorem State.withFiles_draws : (s.withFiles f).draws = s.draws := rfl
@[simp] theorem State.withFiles_driven : (s.withFiles f).driven = s.driven := rfl
end withFiles

section withConIn
variable (s : State) (l : List Byte)
@[simp] theorem State.withConIn_phase : (s.withConIn l).phase = s.phase := rfl
@[simp] theorem State.withConIn_prevIorq : (s.withConIn l).prevIorq = s.prevIorq := rfl
@[simp] theorem State.withConIn_ioLatch : (s.withConIn l).ioLatch = s.ioLatch := rfl
@[simp] theorem State.withConIn_clk : (s.withConIn l).clk = s.clk := rfl
@[simp] theorem State.withConIn_resetLine : (s.withConIn l).resetLine = s.resetLine := rfl
@[simp] theorem State.withConIn_intLine : (s.withConIn l).intLine = s.intLine := rfl
@[simp] theorem State.withConIn_dataDrive : (s.withConIn l).dataDrive = s.dataDrive := rfl
@[simp] theorem State.withConIn_mem : (s.withConIn l).mem = s.mem := rfl
@[simp] theorem State.withConIn_con : (s.withConIn l).con = s.con := rfl
@[simp] theorem State.withConIn_disk : (s.withConIn l).disk = s.disk := rfl
@[simp] theorem State.withConIn_conIn : (s.withConIn l).conIn = l := rfl
@[simp] theorem State.withConIn_conOut : (s.withConIn l).conOut = s.conOut := rfl
@[simp] theorem State.withConIn_files : (s.withConIn l).files = s.files := rfl
@[simp] theorem State.withConIn_cfg : (s.withConIn l).cfg = s.cfg := rfl
@[simp] theorem State.withConIn_inputs : (s.withConIn l).inputs = s.inputs := rfl
@[simp] theorem State.withConIn_ticks : (s.withConIn l).ticks = s.ticks := rfl
@[simp] theorem State.withConIn_powerOns : (s.withConIn l).powerOns = s.powerOns := rfl
@[simp] theorem State.withConIn_draws : (s.withConIn l).draws = s.draws := rfl
@[simp] theorem State.withConIn_driven : (s.withConIn l).driven = s.driven := rfl
end withConIn

section withConOut
variable (s : State) (l : List Byte)
@[simp] theorem State.withConOut_phase : (s.withConOut l).phase = s.phase := rfl
@[simp] theorem State.withConOut_prevIorq : (s.withConOut l).prevIorq = s.prevIorq := rfl
@[simp] theorem State.withConOut_ioLatch : (s.withConOut l).ioLatch = s.ioLatch := rfl
@[simp] theorem State.withConOut_clk : (s.withConOut l).clk = s.clk := rfl
@[simp] theorem State.withConOut_resetLine : (s.withConOut l).resetLine = s.resetLine := rfl
@[simp] theorem State.withConOut_intLine : (s.withConOut l).intLine = s.intLine := rfl
@[simp] theorem State.withConOut_dataDrive : (s.withConOut l).dataDrive = s.dataDrive := rfl
@[simp] theorem State.withConOut_mem : (s.withConOut l).mem = s.mem := rfl
@[simp] theorem State.withConOut_con : (s.withConOut l).con = s.con := rfl
@[simp] theorem State.withConOut_disk : (s.withConOut l).disk = s.disk := rfl
@[simp] theorem State.withConOut_conIn : (s.withConOut l).conIn = s.conIn := rfl
@[simp] theorem State.withConOut_conOut : (s.withConOut l).conOut = l := rfl
@[simp] theorem State.withConOut_files : (s.withConOut l).files = s.files := rfl
@[simp] theorem State.withConOut_cfg : (s.withConOut l).cfg = s.cfg := rfl
@[simp] theorem State.withConOut_inputs : (s.withConOut l).inputs = s.inputs := rfl
@[simp] theorem State.withConOut_ticks : (s.withConOut l).ticks = s.ticks := rfl
@[simp] theorem State.withConOut_powerOns : (s.withConOut l).powerOns = s.powerOns := rfl
@[simp] theorem State.withConOut_draws : (s.withConOut l).draws = s.draws := rfl
@[simp] theorem State.withConOut_driven : (s.withConOut l).driven = s.driven := rfl
end withConOut

section withDrive
variable (s : State) (b : Option Byte)
@[simp] theorem State.withDrive_phase : (s.withDrive b).phase = s.phase := rfl
@[simp] theorem State.withDrive_prevIorq : (s.withDrive b).prevIorq = s.prevIorq := rfl
@[simp] theorem State.withDrive_ioLatch : (s.withDrive b).ioLatch = s.ioLatch := rfl
@[simp] theorem State.withDrive_clk : (s.withDrive b).clk = s.clk := rfl
@[simp] theorem State.withDrive_resetLine : (s.withDrive b).resetLine = s.resetLine := rfl
@[simp] theorem State.withDrive_intLine : (s.withDrive b).intLine = s.intLine := rfl
@[simp] theorem State.withDrive_dataDrive : (s.withDrive b).dataDrive = b := rfl
@[simp] theorem State.withDrive_mem : (s.withDrive b).mem = s.mem := rfl
@[simp] theorem State.withDrive_con : (s.withDrive b).con = s.con := rfl
@[simp] theorem State.withDrive_disk : (s.withDrive b).disk = s.disk := rfl
@[simp] theorem State.withDrive_conIn : (s.withDrive b).conIn = s.conIn := rfl
@[simp] theorem State.withDrive_conOut : (s.withDrive b).conOut = s.conOut := rfl
@[simp] theorem State.withDrive_files : (s.withDrive b).files = s.files := rfl
@[simp] theorem State.withDrive_cfg : (s.withDrive b).cfg = s.cfg := rfl
@[simp] theorem State.withDrive_inputs : (s.withDrive b).inputs = s.inputs := rfl
@[simp] theorem State.withDrive_ticks : (s.withDrive b).ticks = s.ticks := rfl
@[simp] theorem State.withDrive_powerOns : (s.withDrive b).powerOns = s.powerOns := rfl
@[simp] theorem State.withDrive_draws : (s.withDrive b).draws = s.draws := rfl
@[simp] theorem State.withDrive_driven : (s.withDrive b).driven = s.driven := rfl
end withDrive

section withLatch
variable (s : State) (b : Option Byte)
@[simp] theorem State.withLatch_phase : (s.withLatch b).phase = s.phase := rfl
@[simp] theorem State.withLatch_prevIorq : (s.withLatch b).prevIorq = s.prevIorq := rfl
@[simp] theorem State.withLatch_ioLatch : (s.withLatch b).ioLatch = b := rfl
@[simp] theorem State.withLatch_clk : (s.withLatch b).clk = s.clk := rfl
@[simp] theorem State.withLatch_resetLine : (s.withLatch b).resetLine = s.resetLine := rfl
@[simp] theorem State.withLatch_intLine : (s.withLatch b).intLine = s.intLine := rfl
@[simp] theorem State.withLatch_dataDrive : (s.withLatch b).dataDrive = s.dataDrive := rfl
@[simp] theorem State.withLatch_mem : (s.withLatch b).mem = s.mem := rfl
@[simp] theorem State.withLatch_con : (s.withLatch b).con = s.con := rfl
@[simp] theorem State.withLatch_disk : (s.withLatch b).disk = s.disk := rfl
@[simp] theorem State.withLatch_conIn : (s.withLatch b).conIn = s.conIn := rfl
@[simp] theorem State.withLatch_conOut : (s.withLatch b).conOut = s.conOut := rfl
@[simp] theorem State.withLatch_files : (s.withLatch b).files = s.files := rfl
@[simp] theorem State.withLatch_cfg : (s.withLatch b).cfg = s.cfg := rfl
@[simp] theorem State.withLatch_inputs : (s.withLatch b).inputs = s.inputs := rfl
@[simp] theorem State.withLatch_ticks : (s.withLatch b).ticks = s.ticks := rfl
@[simp] theorem State.withLatch_powerOns : (s.withLatch b).powerOns = s.powerOns := rfl
@[simp] theorem State.withLatch_draws : (s.withLatch b).draws = s.draws := rfl
@[simp] theorem State.withLatch_driven : (s.withLatch b).driven = s.driven := rfl
end withLatch

end Sys2Proof.Machine
end

