-- ==== Sys2Proof/Laws/Memory.lean ====
section
/-! SUPPORT. The Memory Array: what a read gives after a write (20_memory.md R51, R60), and that every operation keeps the
canonical form. -/

namespace Sys2Proof.Machine

theorem Memory.get?_set (m : Memory) (a b : Nat) (v : Byte) :
    (m.set a v).get? b = if a = b then some v else m.get? b := by
  induction m with
  | nil => simp [Memory.set, Memory.get?]
  | cons e m ih =>
    obtain ⟨k, w⟩ := e
    by_cases hlt : a < k
    · simp [Memory.set, hlt, Memory.get?]
    · by_cases hk : a = k
      · subst hk
        by_cases hab : a = b <;> simp [Memory.set, Memory.get?, hab]
      · by_cases hkb : k = b
        · subst hkb
          simp [Memory.set, hlt, hk, Memory.get?]
        · simp [Memory.set, hlt, hk, Memory.get?, hkb, ih]

theorem Memory.wf_cons {k : Nat} {b : Byte} {m : Memory} :
    Memory.wf ((k, b) :: m) = true ↔
      k < Config.memSize ∧ Memory.wf m = true ∧ ∀ e ∈ m.head?, k < e.1 := by
  induction m generalizing k b with
  | nil => simp [Memory.wf]
  | cons e m ih =>
    obtain ⟨k', b'⟩ := e
    have hstep : Memory.wf ((k, b) :: (k', b') :: m) = (decide (k < k') && Memory.wf ((k', b') :: m)) := rfl
    rw [hstep, Bool.and_eq_true, decide_eq_true_iff]
    constructor
    · rintro ⟨hlt, hw⟩
      have := (ih.mp hw).1
      exact ⟨by omega, hw, by simpa using hlt⟩
    · rintro ⟨_, hw, hh⟩
      exact ⟨by simpa using hh, hw⟩

/-- Where the head of the list stands after a byte is recorded. -/
theorem Memory.head_set (m : Memory) (a : Nat) (v : Byte) :
    ∀ e ∈ (m.set a v).head?, e.1 = a ∨ ∃ e' ∈ m.head?, e.1 = e'.1 := by
  cases m with
  | nil => simp [Memory.set]
  | cons e m =>
    obtain ⟨k, w⟩ := e
    by_cases hlt : a < k
    · simp [Memory.set, hlt]
    · by_cases hk : a = k <;> simp [Memory.set, hlt, hk]

theorem Memory.set_wf {m : Memory} {a : Nat} {v : Byte} (h : m.wf = true) (ha : a < Config.memSize) :
    (m.set a v).wf = true := by
  induction m with
  | nil => simpa [Memory.set, Memory.wf] using ha
  | cons e m ih =>
    obtain ⟨k, w⟩ := e
    obtain ⟨hk, hm, hh⟩ := Memory.wf_cons.mp h
    by_cases hlt : a < k
    · simp only [Memory.set, hlt, if_true]
      exact Memory.wf_cons.mpr ⟨ha, h, by simpa using hlt⟩
    · by_cases hak : a = k
      · subst hak
        simp only [Memory.set, hlt, if_false, if_true]
        exact Memory.wf_cons.mpr ⟨hk, hm, hh⟩
      · simp only [Memory.set, hlt, hak, if_false]
        refine Memory.wf_cons.mpr ⟨hk, ih hm, fun e he => ?_⟩
        rcases Memory.head_set m a v e he with h1 | ⟨e', h1, h2⟩
        · omega
        · have := hh e' h1
          omega

theorem Memory.setMany_wf {m : Memory} {a : Nat} {l : List Byte} (h : m.wf = true) : (m.setMany a l).wf = true := by
  induction l generalizing m a with
  | nil => exact h
  | cons b l ih => exact ih (Memory.set_wf h (Nat.mod_lt _ (by decide)))

/-- What an address holds after a run of bytes no longer than the Memory Array is recorded at ascending addresses: byte `i` of
the run at `a + i`, wrapped, and everything else as before. -/
theorem Memory.get?_setMany_hit {m : Memory} {a i : Nat} {l : List Byte} (hl : l.length ≤ Config.memSize)
    (hi : i < l.length) : (m.setMany a l).get? ((a + i) % Config.memSize) = some (l[i]) := by
  induction l generalizing m a i with
  | nil => simp at hi
  | cons b l ih =>
    have hmiss : ∀ (l' : List Byte) (m' : Memory) (c x : Nat), (∀ j < l'.length, (c + j) % Config.memSize ≠ x) →
        (m'.setMany c l').get? x = m'.get? x := by
      intro l'
      induction l' with
      | nil => intros; rfl
      | cons b' l' ih' =>
        intro m' c x hx
        have h0 := hx 0 (by simp)
        rw [Memory.setMany, ih' _ _ _ (fun j hj => ?_), Memory.get?_set, if_neg (by simpa using h0)]
        have := hx (j + 1) (by simpa using hj)
        rwa [show c + 1 + j = c + (j + 1) by omega]
    cases i with
    | zero =>
      rw [Memory.setMany, hmiss _ _ _ _ (fun j hj => ?_), Memory.get?_set]
      · simp
      · simp only [List.length_cons, Config.memSize] at hl ⊢
        omega
    | succ i =>
      have := ih (m := m.set (a % Config.memSize) b) (a := a + 1) (i := i)
        (by simp only [List.length_cons] at hl; omega) (by simpa using hi)
      rw [Memory.setMany, show a + (i + 1) = a + 1 + i by omega, this]
      simp

theorem Memory.get?_setMany_miss {m : Memory} {a x : Nat} {l : List Byte}
    (h : ∀ j < l.length, (a + j) % Config.memSize ≠ x) : (m.setMany a l).get? x = m.get? x := by
  induction l generalizing m a with
  | nil => rfl
  | cons b l ih =>
    have h0 := h 0 (by simp)
    rw [Memory.setMany, ih (fun j hj => ?_), Memory.get?_set, if_neg (by simpa using h0)]
    have := h (j + 1) (by simpa using hj)
    rwa [show a + 1 + j = a + (j + 1) by omega]

/-- A read sees only the recorded bytes and the power-on it falls in. -/
theorem memRead_congr {s t : State} (hm : t.mem = s.mem) (hp : t.powerOns = s.powerOns) (a : Nat) :
    memRead t a = memRead s a := by
  simp [memRead, hm, hp]

theorem memRead_mod (s : State) (a : Nat) : memRead s (a % Config.memSize) = memRead s a := by
  simp [memRead]

/-- `MemWrite` then `MemRead` (R51, R60). -/
theorem memRead_memWrite (s : State) (a b : Nat) (v : Byte) :
    memRead (memWrite s a v) b = if a % Config.memSize = b % Config.memSize then v else memRead s b := by
  simp only [memRead, memWrite, State.withMem_mem, State.withMem_powerOns, Memory.get?_set]
  by_cases h : a % Config.memSize = b % Config.memSize <;> simp [h]

/-- A read of byte `i` of a run just written. -/
theorem memRead_memWriteMany_hit (s : State) {a i : Nat} {l : List Byte} (hl : l.length ≤ Config.memSize)
    (hi : i < l.length) : memRead (memWriteMany s a l) (a + i) = l[i] := by
  simp [memRead, memWriteMany, Memory.get?_setMany_hit hl hi]

/-- A read outside a run just written. -/
theorem memRead_memWriteMany_miss (s : State) {a x : Nat} {l : List Byte}
    (h : ∀ j < l.length, (a + j) % Config.memSize ≠ x % Config.memSize) :
    memRead (memWriteMany s a l) x = memRead s x := by
  simp [memRead, memWriteMany, Memory.get?_setMany_miss h]

theorem memWrite_wf (s : State) (a : Nat) (v : Byte) (h : s.mem.wf = true) : (memWrite s a v).mem.wf = true :=
  Memory.set_wf h (Nat.mod_lt _ (by decide))

theorem memWriteMany_wf (s : State) (a : Nat) (l : List Byte) (h : s.mem.wf = true) :
    (memWriteMany s a l).mem.wf = true :=
  Memory.setMany_wf h

theorem memReadMany_length (s : State) (a n : Nat) : (memReadMany s a n).length = n := by
  simp [memReadMany]

end Sys2Proof.Machine
end

