-- ==== Sys2Proof/Laws/Reads.lean ====
section
/-! SUPPORT. The reads of the model see through the updates of the fields they do not look at. -/

namespace Sys2Proof.Machine

section reads
variable (s : State) (m : Memory) (c : Console) (d : DiskSession) (f : Files) (l : List Byte) (b : Option Byte) (a : Nat)
  (n : Name) (h : Handle)

@[simp] theorem memRead_withCon : memRead (s.withCon c) a = memRead s a := rfl
@[simp] theorem memRead_withDisk : memRead (s.withDisk d) a = memRead s a := rfl
@[simp] theorem memRead_withFiles : memRead (s.withFiles f) a = memRead s a := rfl
@[simp] theorem memRead_withConIn : memRead (s.withConIn l) a = memRead s a := rfl
@[simp] theorem memRead_withConOut : memRead (s.withConOut l) a = memRead s a := rfl
@[simp] theorem memRead_withDrive : memRead (s.withDrive b) a = memRead s a := rfl
@[simp] theorem memRead_withLatch : memRead (s.withLatch b) a = memRead s a := rfl

@[simp] theorem fsContents_withMem : fsContents (s.withMem m) n = fsContents s n := rfl
@[simp] theorem fsContents_withCon : fsContents (s.withCon c) n = fsContents s n := rfl
@[simp] theorem fsContents_withDisk : fsContents (s.withDisk d) n = fsContents s n := rfl
@[simp] theorem fsContents_withConIn : fsContents (s.withConIn l) n = fsContents s n := rfl
@[simp] theorem fsContents_withConOut : fsContents (s.withConOut l) n = fsContents s n := rfl
@[simp] theorem fsContents_withDrive : fsContents (s.withDrive b) n = fsContents s n := rfl
@[simp] theorem fsContents_withLatch : fsContents (s.withLatch b) n = fsContents s n := rfl

@[simp] theorem fsExists_withMem : fsExists (s.withMem m) n = fsExists s n := rfl
@[simp] theorem fsExists_withCon : fsExists (s.withCon c) n = fsExists s n := rfl
@[simp] theorem fsExists_withDisk : fsExists (s.withDisk d) n = fsExists s n := rfl
@[simp] theorem fsExists_withConIn : fsExists (s.withConIn l) n = fsExists s n := rfl
@[simp] theorem fsExists_withConOut : fsExists (s.withConOut l) n = fsExists s n := rfl
@[simp] theorem fsExists_withDrive : fsExists (s.withDrive b) n = fsExists s n := rfl
@[simp] theorem fsExists_withLatch : fsExists (s.withLatch b) n = fsExists s n := rfl

@[simp] theorem fsLen_withMem : fsLen (s.withMem m) n = fsLen s n := rfl
@[simp] theorem fsLen_withCon : fsLen (s.withCon c) n = fsLen s n := rfl
@[simp] theorem fsLen_withDisk : fsLen (s.withDisk d) n = fsLen s n := rfl
@[simp] theorem fsLen_withConIn : fsLen (s.withConIn l) n = fsLen s n := rfl
@[simp] theorem fsLen_withConOut : fsLen (s.withConOut l) n = fsLen s n := rfl
@[simp] theorem fsLen_withDrive : fsLen (s.withDrive b) n = fsLen s n := rfl
@[simp] theorem fsLen_withLatch : fsLen (s.withLatch b) n = fsLen s n := rfl

@[simp] theorem fsList_withMem : fsList (s.withMem m) = fsList s := rfl
@[simp] theorem fsList_withCon : fsList (s.withCon c) = fsList s := rfl
@[simp] theorem fsList_withDisk : fsList (s.withDisk d) = fsList s := rfl
@[simp] theorem fsList_withConIn : fsList (s.withConIn l) = fsList s := rfl
@[simp] theorem fsList_withConOut : fsList (s.withConOut l) = fsList s := rfl
@[simp] theorem fsList_withDrive : fsList (s.withDrive b) = fsList s := rfl
@[simp] theorem fsList_withLatch : fsList (s.withLatch b) = fsList s := rfl

@[simp] theorem handleHasData_withMem : handleHasData (s.withMem m) h = handleHasData s h := rfl
@[simp] theorem handleHasData_withCon : handleHasData (s.withCon c) h = handleHasData s h := rfl
@[simp] theorem handleHasData_withDisk : handleHasData (s.withDisk d) h = handleHasData s h := rfl
@[simp] theorem handleHasData_withConIn : handleHasData (s.withConIn l) h = handleHasData s h := rfl
@[simp] theorem handleHasData_withConOut : handleHasData (s.withConOut l) h = handleHasData s h := rfl
@[simp] theorem handleHasData_withDrive : handleHasData (s.withDrive b) h = handleHasData s h := rfl
@[simp] theorem handleHasData_withLatch : handleHasData (s.withLatch b) h = handleHasData s h := rfl

end reads

end Sys2Proof.Machine
end

