-- ==== Sys2Proof/Laws/Store.lean ====
section
/-! SUPPORT. The filesystem collaborator's primitives (00_scope.md R12): what each does to one name and to every other, the
contents after a write, and that every operation keeps the canonical form. -/

namespace Sys2Proof.Machine

theorem nameLt_irrefl (n : Name) : nameLt n n = false := by
  induction n with
  | nil => rfl
  | cons a n ih => simp [nameLt, ih]

theorem nameLt_trans {a b c : Name} (hab : nameLt a b = true) (hbc : nameLt b c = true) : nameLt a c = true := by
  induction a generalizing b c with
  | nil =>
    cases c with
    | nil => cases b <;> simp [nameLt] at hbc
    | cons z c => rfl
  | cons x a ih =>
    cases b with
    | nil => simp [nameLt] at hab
    | cons y b =>
      cases c with
      | nil => simp [nameLt] at hbc
      | cons z c =>
        simp only [nameLt, Bool.or_eq_true, decide_eq_true_iff, Bool.and_eq_true, beq_iff_eq] at hab hbc ⊢
        rcases hab with h1 | ⟨rfl, h1⟩
        · rcases hbc with h2 | ⟨rfl, _⟩
          · exact .inl (by omega)
          · exact .inl h1
        · rcases hbc with h2 | ⟨rfl, h2⟩
          · exact .inl h2
          · exact .inr ⟨rfl, ih h1 h2⟩

/-- Of two different names one comes first. -/
theorem nameLt_total {a b : Name} (h1 : nameLt a b = false) (h2 : a ≠ b) : nameLt b a = true := by
  induction a generalizing b with
  | nil =>
    cases b with
    | nil => exact absurd rfl h2
    | cons y b => simp [nameLt] at h1
  | cons x a ih =>
    cases b with
    | nil => rfl
    | cons y b =>
      simp only [nameLt, Bool.or_eq_false_iff, decide_eq_false_iff_not, Bool.and_eq_false_iff, Bool.or_eq_true,
        decide_eq_true_iff, Bool.and_eq_true, beq_iff_eq] at h1 ⊢
      obtain ⟨hx, hy⟩ := h1
      by_cases hxy : x = y
      · subst hxy
        rcases hy with hy | hy
        · simp at hy
        · exact .inr ⟨rfl, ih hy (fun h => h2 (by rw [h]))⟩
      · have : x.toNat ≠ y.toNat := fun h => hxy (BitVec.eq_of_toNat_eq h)
        exact .inl (by omega)

theorem Files.find?_put (f : Files) (n k : Name) (d : List Byte) :
    (f.put n d).find? k = if n = k then some d else f.find? k := by
  induction f with
  | nil => simp [Files.put, Files.find?]
  | cons e f ih =>
    obtain ⟨m, c⟩ := e
    by_cases hlt : nameLt n m = true
    · simp [Files.put, hlt, Files.find?]
    · by_cases hnm : n = m
      · subst hnm
        by_cases hnk : n = k <;> simp [Files.put, nameLt_irrefl, Files.find?, hnk]
      · by_cases hmk : m = k
        · subst hmk
          simp [Files.put, hlt, hnm, Files.find?]
        · simp [Files.put, hlt, hnm, Files.find?, hmk, ih]

theorem Files.wf_cons {k : Name} {d : List Byte} {f : Files} :
    Files.wf ((k, d) :: f) = true ↔ k ≠ [] ∧ Files.wf f = true ∧ ∀ e ∈ f.head?, nameLt k e.1 = true := by
  cases f with
  | nil => cases k <;> simp [Files.wf]
  | cons e f =>
    obtain ⟨k', d'⟩ := e
    have hstep : Files.wf ((k, d) :: (k', d') :: f) = (!k.isEmpty && nameLt k k' && Files.wf ((k', d') :: f)) := rfl
    rw [hstep]
    cases k <;> simp [and_comm]

/-- In canonical form every later name is greater. -/
theorem Files.wf_forall {k : Name} {d : List Byte} {f : Files} (h : Files.wf ((k, d) :: f) = true) :
    ∀ e ∈ f, nameLt k e.1 = true := by
  induction f generalizing k d with
  | nil => simp
  | cons e f ih =>
    obtain ⟨k', d'⟩ := e
    obtain ⟨_, hw, hh⟩ := Files.wf_cons.mp h
    have hk : nameLt k k' = true := by simpa using hh
    intro e he
    rcases List.mem_cons.mp he with rfl | he
    · exact hk
    · exact nameLt_trans hk (ih hw e he)

theorem Files.head_put (f : Files) (n : Name) (d : List Byte) :
    ∀ e ∈ (f.put n d).head?, e.1 = n ∨ ∃ e' ∈ f.head?, e.1 = e'.1 := by
  cases f with
  | nil => simp [Files.put]
  | cons e f =>
    obtain ⟨k, c⟩ := e
    by_cases hlt : nameLt n k = true
    · simp [Files.put, hlt]
    · by_cases hk : n = k <;> simp [Files.put, hlt, hk, nameLt_irrefl]

theorem Files.put_wf {f : Files} {n : Name} {d : List Byte} (h : f.wf = true) (hn : n ≠ []) :
    (f.put n d).wf = true := by
  induction f with
  | nil => cases n <;> simp_all [Files.put, Files.wf]
  | cons e f ih =>
    obtain ⟨k, c⟩ := e
    obtain ⟨hk, hf, hh⟩ := Files.wf_cons.mp h
    by_cases hlt : nameLt n k = true
    · simp only [Files.put, hlt, if_true]
      exact Files.wf_cons.mpr ⟨hn, h, by simpa using hlt⟩
    · by_cases hnk : n = k
      · subst hnk
        simp only [Files.put, hlt, if_true, if_false, Bool.false_eq_true]
        exact Files.wf_cons.mpr ⟨hk, hf, hh⟩
      · simp only [Files.put, hlt, hnk, if_false, Bool.false_eq_true]
        refine Files.wf_cons.mpr ⟨hk, ih hf, fun e he => ?_⟩
        rcases Files.head_put f n d e he with h1 | ⟨e', h1, h2⟩
        · rw [h1]
          exact nameLt_total (by simpa using hlt) hnk
        · rw [h2]
          exact hh e' h1

theorem Files.find?_eq_none_of_lt {k : Name} {d : List Byte} {f : Files} (h : Files.wf ((k, d) :: f) = true) :
    Files.find? f k = none := by
  have hall := Files.wf_forall h
  clear h
  induction f with
  | nil => rfl
  | cons e f ih =>
    obtain ⟨m, c⟩ := e
    have hm := hall (m, c) (by simp)
    have hne : m ≠ k := by
      rintro rfl
      simp [nameLt_irrefl] at hm
    simp only [Files.find?, hne, if_false]
    exact ih (fun e he => hall e (by simp [he]))

/-- After a removal the name is gone and every other is as before; the list must be canonical, or a second entry of the name
would show. -/
theorem Files.find?_remove {f : Files} (h : f.wf = true) (n k : Name) :
    (f.remove n).find? k = if n = k then none else f.find? k := by
  induction f with
  | nil => simp [Files.remove, Files.find?]
  | cons e f ih =>
    obtain ⟨m, c⟩ := e
    obtain ⟨_, hf, _⟩ := Files.wf_cons.mp h
    by_cases hmn : m = n
    · subst hmn
      by_cases hmk : m = k
      · subst hmk
        simpa [Files.remove] using Files.find?_eq_none_of_lt h
      · simp [Files.remove, Files.find?, hmk]
    · by_cases hmk : m = k
      · subst hmk
        simp [Files.remove, Files.find?, hmn, Ne.symm hmn]
      · simp [Files.remove, Files.find?, hmn, hmk, ih hf]

/-- A removal leaves every other name as it was, whatever the list. -/
theorem Files.find?_remove_other (f : Files) {n k : Name} (h : k ≠ n) : (f.remove n).find? k = f.find? k := by
  induction f with
  | nil => rfl
  | cons e f ih =>
    obtain ⟨m, c⟩ := e
    by_cases hmn : m = n
    · subst hmn
      simp [Files.remove, Files.find?, Ne.symm h]
    · simp [Files.remove, Files.find?, hmn, ih]

theorem Files.remove_wf {f : Files} (h : f.wf = true) (n : Name) : (f.remove n).wf = true := by
  induction f with
  | nil => rfl
  | cons e f ih =>
    obtain ⟨m, c⟩ := e
    obtain ⟨hm, hf, hh⟩ := Files.wf_cons.mp h
    by_cases hmn : m = n
    · simpa [Files.remove, hmn] using hf
    · simp only [Files.remove, hmn, if_false]
      refine Files.wf_cons.mpr ⟨hm, ih hf, fun e he => ?_⟩
      refine Files.wf_forall h e ?_
      have hsub : ∀ g : Files, ∀ e ∈ g.remove n, e ∈ g := by
        intro g
        induction g with
        | nil => simp [Files.remove]
        | cons e' g ihg =>
          obtain ⟨m', c'⟩ := e'
          intro e he
          simp only [Files.remove] at he
          split at he
          · simp [he]
          · rcases List.mem_cons.mp he with rfl | he
            · simp
            · simp [ihg e he]
      exact hsub f e (List.mem_of_mem_head? he)

theorem spliceAt_length (d : List Byte) (pos : Nat) (bytes : List Byte) :
    (spliceAt d pos bytes).length = max d.length (pos + bytes.length) := by
  simp [spliceAt]
  omega

/-- A byte of the contents after a write (R12): inside the run the byte written, else the old byte, with zero bytes in a gap
beyond the old end. -/
theorem spliceAt_getD (d : List Byte) (pos : Nat) (bytes : List Byte) (i : Nat) :
    (spliceAt d pos bytes).getD i 0#8 =
      if pos ≤ i ∧ i < pos + bytes.length then bytes.getD (i - pos) 0#8 else d.getD i 0#8 := by
  have hlen : (d ++ List.replicate (pos - d.length) 0#8).length = max d.length pos := by simp; omega
  have hpad : (d ++ List.replicate (pos - d.length) 0#8).getD i 0#8 = d.getD i 0#8 := by
    by_cases h : i < d.length
    · simp [List.getD_eq_getElem?_getD, List.getElem?_append, h]
    · simp only [List.getD_eq_getElem?_getD, List.getElem?_append, h, if_false, List.getElem?_replicate]
      split <;> simp [List.getElem?_eq_none (Nat.le_of_not_lt h)]
  unfold spliceAt
  simp only
  generalize d ++ List.replicate (pos - d.length) 0#8 = p at hlen hpad ⊢
  rw [← hpad]
  simp only [List.getD_eq_getElem?_getD, List.getElem?_append, List.getElem?_take, List.getElem?_drop, List.length_append,
    List.length_take, hlen]
  have hmin : min pos (max d.length pos) = pos := by omega
  rw [hmin]
  by_cases h1 : i < pos
  · simp [h1, show i < pos + bytes.length by omega, show ¬ pos ≤ i by omega]
  · by_cases h2 : i < pos + bytes.length
    · simp [h1, h2, show pos ≤ i by omega]
    · simp only [h1, h2, if_false, and_false]
      rw [show pos + bytes.length + (i - (pos + bytes.length)) = i by omega]

/-- `fs_write` and the contents of any file (R12). -/
theorem fsContents_fsWrite (s : State) (n k : Name) (pos : Nat) (bytes : List Byte) :
    fsContents (fsWrite s n pos bytes) k = if n = k then spliceAt (fsContents s n) pos bytes else fsContents s k := by
  simp only [fsContents, fsWrite, State.withFiles_files, Files.find?_put]
  split <;> simp

theorem fsExists_fsWrite (s : State) (n k : Name) (pos : Nat) (bytes : List Byte) :
    fsExists (fsWrite s n pos bytes) k = (decide (n = k) || fsExists s k) := by
  simp only [fsExists, fsWrite, State.withFiles_files, Files.find?_put]
  split <;> simp_all

theorem fsExists_fsCreateEmpty (s : State) (n k : Name) :
    fsExists (fsCreateEmpty s n) k = (decide (n = k) || fsExists s k) := by
  simp only [fsExists, fsCreateEmpty, State.withFiles_files, Files.find?_put]
  split <;> simp_all

/-- A name with an entry is not empty in a canonical store. -/
theorem Files.ne_nil_of_find? {f : Files} (h : f.wf = true) {n : Name} (hn : (f.find? n).isSome = true) : n ≠ [] := by
  induction f with
  | nil => simp [Files.find?] at hn
  | cons e f ih =>
    obtain ⟨m, c⟩ := e
    obtain ⟨hm, hf, _⟩ := Files.wf_cons.mp h
    by_cases hmn : m = n
    · exact hmn ▸ hm
    · exact ih hf (by simpa [Files.find?, hmn] using hn)

/-- What `fs_list()` answers, but for the two dot names, is the names of `files` in some order (R12). -/
theorem fsList_perm (s : State) : (listable (fsList s)).Perm (listable s.files.names) := by
  unfold fsList
  split
  · rename_i h
    simp only [listingAllowed, Bool.and_eq_true] at h
    exact List.isPerm_iff.mp h.1
  · exact List.Perm.refl _

end Sys2Proof.Machine
end

