-- ==== Sys2Proof/Laws/Ops.lean ====
section
/-! SUPPORT. The shared operations: the small ones as named updates of one field, and for each larger one a lemma that says
once everything it can do, so that later proofs cite it and do not unfold it. -/

namespace Sys2Proof.Machine

/-! Small operations as updates of one field. -/

@[simp] theorem raiseError_eq (k : ErrorKind) (s : State) :
    raiseError k s = s.withDisk { s.disk with error := true } := rfl
@[simp] theorem raiseBlockError_eq (k : ErrorKind) (s : State) :
    raiseBlockError k s = s.withDisk { s.disk with error := true, blkResult := s.cfg.blockFail } := rfl
@[simp] theorem succeed_eq (s : State) : succeed s = s.withDisk { s.disk with error := false } := rfl
@[simp] theorem succeedBlock_eq (s : State) :
    succeedBlock s = s.withDisk { s.disk with error := false, blkResult := Config.blockOk } := rfl
@[simp] theorem fsFault_eq (s : State) : fsFault s = s.draws.fsFault := rfl
@[simp] theorem setFile_eq (s : State) (f : Option Handle) : setFile s f = s.withDisk { s.disk with file := f } := rfl
@[simp] theorem setDir_eq (s : State) (c : Option Cursor) : setDir s c = s.withDisk { s.disk with dir := c } := rfl
@[simp] theorem setPos_eq (s : State) (h : Handle) (p : Nat) :
    setPos s h p = s.withDisk { s.disk with file := some { h with pos := p } } := rfl
@[simp] theorem setLastCmd_eq (s : State) (v : Byte) : setLastCmd s v = s.withDisk { s.disk with lastCmd := v } := rfl
@[simp] theorem consumeName_eq (s : State) :
    consumeName s = s.withDisk { s.disk with fname := [], fnameCommitted := false } := rfl
@[simp] theorem ioReadDone_eq (b : Byte) (s : State) : ioReadDone b s = (s.withDrive (some b)).withLatch (some b) := rfl
@[simp] theorem ioWriteDone_eq (s : State) : ioWriteDone s = s.withLatch none := rfl
@[simp] theorem idleService_eq (s : State) : idleService s = s.withLatch none := rfl
@[simp] theorem memWrite_eq (s : State) (a : Nat) (v : Byte) :
    memWrite s a v = s.withMem (s.mem.set (a % Config.memSize) v) := rfl
@[simp] theorem memWriteMany_eq (s : State) (a : Nat) (l : List Byte) :
    memWriteMany s a l = s.withMem (s.mem.setMany a l) := rfl
@[simp] theorem fsWrite_eq (s : State) (n : Name) (p : Nat) (l : List Byte) :
    fsWrite s n p l = s.withFiles (s.files.put n (spliceAt (fsContents s n) p l)) := rfl
@[simp] theorem fsRemove_eq (s : State) (n : Name) : fsRemove s n = s.withFiles (s.files.remove n) := rfl
@[simp] theorem fsCreateEmpty_eq (s : State) (n : Name) : fsCreateEmpty s n = s.withFiles (s.files.put n []) := rfl
@[simp] theorem fsFlush_eq (s : State) (n : Name) : fsFlush s n = s := rfl

/-- Two updates of the DiskSession are the later one. -/
@[simp] theorem State.withDisk_withDisk (s : State) (d d' : DiskSession) : (s.withDisk d).withDisk d' = s.withDisk d' := rfl

/-! Which fields the reads of the model look at. -/

theorem fsContents_congr {s t : State} (h : t.files = s.files) (n : Name) : fsContents t n = fsContents s n := by
  simp [fsContents, h]

theorem fsLen_congr {s t : State} (h : t.files = s.files) (n : Name) : fsLen t n = fsLen s n := by
  simp [fsLen, fsContents_congr h]

theorem fsExists_congr {s t : State} (h : t.files = s.files) (n : Name) : fsExists t n = fsExists s n := by
  simp [fsExists, h]

theorem handleHasData_congr {s t : State} (h : t.files = s.files) (k : Handle) :
    handleHasData t k = handleHasData s k := by
  simp [handleHasData, fsLen_congr h]

theorem fsList_congr {s t : State} (h : t.files = s.files) (hd : t.draws = s.draws) : fsList t = fsList s := by
  simp [fsList, h, hd]

/-- Readable is: not opened for writing only. -/
theorem AccessMode.readable_iff (m : AccessMode) : m.readable = true ↔ m ≠ .w := by cases m <;> simp [AccessMode.readable]

/-- Writable is: not opened for reading only. -/
theorem AccessMode.writable_iff (m : AccessMode) : m.writable = true ↔ m ≠ .r := by cases m <;> simp [AccessMode.writable]

/-! Operands. -/

/-- The cursor at an entry delivers the name and then `LINE_TERM` (R33, R83). -/
theorem cursorAt_bytes (c : Params) (e : Name) (rest : List Name) :
    (cursorAt c e rest).curHead :: (cursorAt c e rest).curTail = e ++ c.lineTerm := by
  cases e <;> rfl

@[simp] theorem cursorAt_rest (c : Params) (e : Name) (rest : List Name) : (cursorAt c e rest).rest = rest := by
  cases e <;> rfl

theorem cursorOver_nil (c : Params) : cursorOver c [] = none := rfl

theorem cursorOver_cons (c : Params) (e : Name) (l : List Name) : cursorOver c (e :: l) = some (cursorAt c e l) := rfl

theorem zeroPadded_length (q : Nat) (d : List Byte) (h : d.length ≤ q) : (zeroPadded q d).length = q := by
  simp [zeroPadded]
  omega

/-- Byte `i` of the quantum a block read delivers (R150). -/
theorem zeroPadded_fsRead_getD (s : State) (n : Name) (pos q i : Nat) (hi : i < q) :
    (zeroPadded q (fsRead s n pos q)).getD i 0#8 = (fsContents s n).getD (pos + i) 0#8 := by
  simp only [zeroPadded, fsRead, List.getD_eq_getElem?_getD, List.getElem?_append, List.getElem?_replicate]
  split
  · rename_i h
    simp [List.getElem?_drop, hi]
  · rename_i h
    simp only [List.length_take, List.length_drop] at h
    rw [List.getElem?_eq_none (l := fsContents s n) (by omega)]
    split <;> rfl

theorem fsRead_length (s : State) (n : Name) (pos k : Nat) : (fsRead s n pos k).length = min k (fsLen s n - pos) := by
  simp [fsRead, fsLen]

/-! The larger operations, each once. -/

/-- What an attempt to open can do (R142 to R144, R148): succeed with the store as it was and an existing file; create; fail with
the store as it was; or fail after CREATE has removed the old file. -/
theorem openAttempt_cases (kind : OpenKind) (n : Name) (s : State) :
    (n ≠ [] ∧ s.draws.fsFault = false ∧ fsExists s n = true ∧
      ((kind = .openRead ∧ openAttempt kind n s = (s, some (.r, 0)))
      ∨ (kind = .openAppend ∧ openAttempt kind n s = (s, some (.w, fsLen s n)))
      ∨ (kind = .openReadwrite ∧ openAttempt kind n s = (s, some (.rw, 0)))))
    ∨ (n ≠ [] ∧ s.draws.fsFault = false ∧ kind = .create ∧
      openAttempt kind n s = (fsCreateEmpty (if fsExists s n then fsRemove s n else s) n, some (.w, 0)))
    ∨ ((n = [] ∨ s.draws.fsFault = true ∨ fsExists s n = false) ∧ openAttempt kind n s = (s, none))
    ∨ (n ≠ [] ∧ s.draws.fsFault = true ∧ s.draws.removed = true ∧ fsExists s n = true ∧ kind = .create ∧
      openAttempt kind n s = (fsRemove s n, none)) := by
  by_cases hn : n = []
  · simp [openAttempt, hn]
  · have hne : n.isEmpty = false := by simpa using hn
    by_cases hf : s.draws.fsFault = true <;> by_cases he : fsExists s n = true <;>
      by_cases hr : s.draws.removed = true <;> cases kind <;>
      simp_all [openAttempt, fsOpen, fsOpenExisting]

/-- What an open-class command can do (R141). -/
theorem openClass_cases (kind : OpenKind) (s : State) :
    (s.disk.fnameCommitted = false ∧ openClass kind s = raiseError .proto s)
    ∨ (s.disk.fnameCommitted = true ∧ ∃ t m p, openAttempt kind s.disk.fname (consumeName s) = (t, some (m, p))
      ∧ openClass kind s = succeed (setFile t (some { name := s.disk.fname, mode := m, pos := p })))
    ∨ (s.disk.fnameCommitted = true ∧ ∃ t, openAttempt kind s.disk.fname (consumeName s) = (t, none)
      ∧ openClass kind s = raiseError .store (dropOrphan t)) := by
  unfold openClass
  by_cases hc : s.disk.fnameCommitted = true
  · rcases hr : openAttempt kind s.disk.fname (consumeName s) with ⟨t, _ | ⟨m, p⟩⟩
    · simp only [hc, if_true]
      exact .inr (.inr ⟨trivial, t, rfl, rfl⟩)
    · simp only [hc, if_true]
      exact .inr (.inl ⟨trivial, t, m, p, rfl, rfl⟩)
  · simp only [hc]
    exact .inl ⟨by simp, rfl⟩

/-- After a failed open the surviving handle is kept when its file exists and closed when it does not (R141, D42). -/
theorem dropOrphan_cases (s : State) :
    (dropOrphan s = s ∧ ∀ h, s.disk.file = some h → fsExists s h.name = true)
    ∨ (dropOrphan s = setFile s none ∧ ∃ h, s.disk.file = some h ∧ fsExists s h.name = false) := by
  unfold dropOrphan
  rcases hf : s.disk.file with _ | h
  · exact .inl ⟨rfl, by simp⟩
  · by_cases he : fsExists s h.name = true
    · simp [he]
    · simp [he]

/-- What SEEK and SEEK_TO_START can do (R145, R149). -/
theorem moveTo_cases (p : Nat) (s : State) :
    (s.disk.file = none ∧ moveTo p s = raiseError .proto s)
    ∨ (∃ h, s.disk.file = some h ∧ s.draws.fsFault = true ∧ moveTo p s = raiseError .store s)
    ∨ (∃ h, s.disk.file = some h ∧ s.draws.fsFault = false ∧ moveTo p s = succeed (setPos s h p)) := by
  unfold moveTo
  rcases s.disk.file with _ | h
  · exact .inl ⟨rfl, rfl⟩
  · by_cases hf : s.draws.fsFault = true <;> simp [hf]

/-- What LIST_DIRECTORY can do (R147). -/
theorem listDirectory_cases (s : State) :
    (s.draws.fsFault = true ∧ listDirectory s = raiseError .store s)
    ∨ (s.draws.fsFault = false ∧
      listDirectory s = succeed (setDir s (cursorOver s.cfg (listable (fsList s))))) := by
  unfold listDirectory
  by_cases hf : s.draws.fsFault = true <;> simp [hf]

/-- What a block read can do (R150). -/
theorem blockRead_cases (s : State) :
    (s.disk.file = none ∧ blockRead s = raiseBlockError .proto s)
    ∨ (∃ h, s.disk.file = some h ∧ ((s.cfg.modeStrict = true ∧ h.mode = .w) ∨ s.draws.fsFault = true)
      ∧ blockRead s = raiseBlockError .store s)
    ∨ (∃ h, s.disk.file = some h ∧ (s.cfg.modeStrict = true → h.mode ≠ .w) ∧ s.draws.fsFault = false
      ∧ blockRead s = blockReadTransfer h s) := by
  unfold blockRead
  rcases s.disk.file with _ | h
  · exact .inl ⟨rfl, rfl⟩
  · by_cases hf : s.draws.fsFault = true <;> by_cases hm : s.cfg.modeStrict = true <;> rcases h with ⟨n, m, p⟩ <;>
      cases m <;> simp [hf, hm, AccessMode.readable]

/-- What a block write can do (R151). -/
theorem blockWrite_cases (s : State) :
    (s.disk.file = none ∧ blockWrite s = raiseBlockError .proto s)
    ∨ (∃ h, s.disk.file = some h ∧ ((s.cfg.modeStrict = true ∧ h.mode = .r) ∨ s.draws.fsFault = true)
      ∧ blockWrite s = raiseBlockError .store s)
    ∨ (∃ h, s.disk.file = some h ∧ (s.cfg.modeStrict = true → h.mode ≠ .r) ∧ s.draws.fsFault = false
      ∧ blockWrite s = blockWriteTransfer h s) := by
  unfold blockWrite
  rcases s.disk.file with _ | h
  · exact .inl ⟨rfl, rfl⟩
  · by_cases hf : s.draws.fsFault = true <;> by_cases hm : s.cfg.modeStrict = true <;> rcases h with ⟨n, m, p⟩ <;>
      cases m <;> simp [hf, hm, AccessMode.writable]

/-- What a write of the file name port can do (R121). -/
theorem fnameWrite_cases (v : Byte) (s : State) :
    (v = 0x00#8 ∧ fnameWrite v s = s.withDisk { s.disk with fnameCommitted := true })
    ∨ (v ≠ 0x00#8 ∧ s.disk.fnameCommitted = true
      ∧ fnameWrite v s = s.withDisk { s.disk with fname := [v], fnameCommitted := false })
    ∨ (v ≠ 0x00#8 ∧ s.disk.fnameCommitted = false ∧ s.disk.fname.length < s.cfg.fnameMax
      ∧ fnameWrite v s = s.withDisk { s.disk with fname := s.disk.fname ++ [v] })
    ∨ (v ≠ 0x00#8 ∧ s.disk.fnameCommitted = false ∧ s.cfg.fnameMax ≤ s.disk.fname.length ∧ fnameWrite v s = s) := by
  unfold fnameWrite
  by_cases hv : v = 0x00#8
  · exact .inl ⟨hv, by simp [hv]⟩
  · by_cases hc : s.disk.fnameCommitted = true
    · exact .inr (.inl ⟨hv, hc, by simp [hv, hc]⟩)
    · by_cases hl : s.disk.fname.length < s.cfg.fnameMax
      · exact .inr (.inr (.inl ⟨hv, by simpa using hc, hl, by simp [hv, hc, hl]⟩))
      · exact .inr (.inr (.inr ⟨hv, by simpa using hc, by omega, by simp [hv, hc, hl]⟩))

/-- What one read of an open listing can do (R127). -/
theorem dirDataRead_cases (k : Cursor) (s : State) :
    (∃ b l, k.curTail = b :: l ∧
      dirDataRead k s = (k.curHead, setDir s (some { curHead := b, curTail := l, rest := k.rest })))
    ∨ (∃ e l, k.curTail = [] ∧ k.rest = e :: l ∧
      dirDataRead k s = (k.curHead, setDir s (some (cursorAt s.cfg e l))))
    ∨ (k.curTail = [] ∧ k.rest = [] ∧ dirDataRead k s = (k.curHead, succeed (setDir s none))) := by
  rcases k with ⟨b0, _ | ⟨b, l⟩, rest⟩
  · rcases rest with _ | ⟨e, l⟩
    · exact .inr (.inr ⟨rfl, rfl, rfl⟩)
    · exact .inr (.inl ⟨e, l, rfl, rfl, rfl⟩)
  · exact .inl ⟨b, l, rfl, rfl⟩

/-- What one read of the file can do (R128). -/
theorem fileDataRead_cases (s : State) :
    (∃ h, s.disk.file = some h ∧ handleHasData s h = true ∧ s.draws.fsFault = true
      ∧ fileDataRead s = (s.cfg.diskDataEmpty, raiseError .store s))
    ∨ (∃ h, s.disk.file = some h ∧ handleHasData s h = true ∧ s.draws.fsFault = false
      ∧ fileDataRead s = ((fsContents s h.name).getD h.pos 0#8, setPos s h (h.pos + 1)))
    ∨ ((∀ h, s.disk.file = some h → handleHasData s h = false) ∧ fileDataRead s = (s.cfg.diskDataEmpty, s)) := by
  unfold fileDataRead
  rcases hf : s.disk.file with _ | h
  · exact .inr (.inr ⟨by simp, rfl⟩)
  · by_cases hd : handleHasData s h = true <;> by_cases hx : s.draws.fsFault = true <;> simp [hd, hx]

/-- What a data-port read can do is what the listing or the file gives (R133). -/
theorem diskDataRead_cases (s : State) :
    (∃ k, s.disk.dir = some k ∧ diskDataRead s = dirDataRead k s)
    ∨ (s.disk.dir = none ∧ diskDataRead s = fileDataRead s) := by
  unfold diskDataRead
  rcases s.disk.dir with _ | k
  · exact .inr ⟨rfl, rfl⟩
  · exact .inl ⟨k, rfl, rfl⟩

/-- What a data-port write can do (R129). -/
theorem diskDataWrite_cases (v : Byte) (s : State) :
    (s.disk.file = none ∧ diskDataWrite v s = s)
    ∨ (∃ h, s.disk.file = some h ∧ ((s.cfg.modeStrict = true ∧ h.mode = .r) ∨ s.draws.fsFault = true)
      ∧ diskDataWrite v s = raiseError .store s)
    ∨ (∃ h, s.disk.file = some h ∧ (s.cfg.modeStrict = true → h.mode ≠ .r) ∧ s.draws.fsFault = false
      ∧ diskDataWrite v s = setPos (fsWrite s h.name h.pos [v]) h (h.pos + 1)) := by
  unfold diskDataWrite
  rcases s.disk.file with _ | h
  · exact .inl ⟨rfl, rfl⟩
  · by_cases hf : s.draws.fsFault = true <;> by_cases hm : s.cfg.modeStrict = true <;> rcases h with ⟨n, m, p⟩ <;>
      cases m <;> simp [hf, hm, AccessMode.writable]

/-- What a console data read can do (R112). -/
theorem conDataReceive_cases (s : State) :
    (s.con.rxReady = false ∧ conDataReceive s = s)
    ∨ (∃ b rest, s.con.rxReady = true ∧ s.conIn = b :: rest
      ∧ conDataReceive s = (s.withConIn rest).withCon { s.con with rxData := b, rxReady := false })
    ∨ (s.con.rxReady = true ∧ s.conIn = [] ∧ conDataReceive s = s.withCon { s.con with rxReady := false }) := by
  unfold conDataReceive
  by_cases hr : s.con.rxReady = true
  · rcases hc : s.conIn with _ | ⟨b, rest⟩ <;> simp [hr]
  · exact .inl ⟨by simpa using hr, by simp [hr]⟩

end Sys2Proof.Machine
end

