-- ==== Sys2Proof/Laws/PerInstr.lean ====
section
/-! SUPPORT. The statement made of every instruction, one lemma per constructor: how long its encoded word is. -/

namespace Sys2Proof.Laws.WordLength

/-- How many bytes the words of a format have (30_encoding.md R70 to R75). -/
def wordBytes : Format → Nat
  | .bus => 4
  | .port => 3
  | .cmd => 1
  | .blk => 1

/-- Under every choice of parameters the encoded word has the length of its format's words. -/
def Statement (i : Instr) : Prop := ∀ c : Params, (encode c i).2.length = wordBytes (encode c i).1

theorem memoryRead (addr : Addr) : Statement (.memoryRead addr) := fun _ => rfl
theorem memoryWrite (addr : Addr) (data : Byte) : Statement (.memoryWrite addr data) := fun _ => rfl
theorem idleMemNostrobe : Statement (.idleMemNostrobe) := fun _ => rfl
theorem idleNorequest : Statement (.idleNorequest) := fun _ => rfl
theorem idleIoNostrobe : Statement (.idleIoNostrobe) := fun _ => rfl
theorem ioRead (addr : Addr) : Statement (.ioRead addr) := fun _ => rfl
theorem ioWrite (addr : Addr) (data : Byte) : Statement (.ioWrite addr data) := fun _ => rfl
theorem ioReadHold : Statement (.ioReadHold) := fun _ => rfl
theorem ioWriteHold : Statement (.ioWriteHold) := fun _ => rfl
theorem outDiskCmd (v : Byte) : Statement (.outDiskCmd v) := fun _ => rfl
theorem inDiskStatus : Statement (.inDiskStatus) := fun _ => rfl
theorem inDiskData : Statement (.inDiskData) := fun _ => rfl
theorem outDiskData (v : Byte) : Statement (.outDiskData v) := fun _ => rfl
theorem outDiskFname (v : Byte) : Statement (.outDiskFname v) := fun _ => rfl
theorem outSeekLo (v : Byte) : Statement (.outSeekLo v) := fun _ => rfl
theorem outSeekMid (v : Byte) : Statement (.outSeekMid v) := fun _ => rfl
theorem outSeekHi (v : Byte) : Statement (.outSeekHi v) := fun _ => rfl
theorem outDmaLo (v : Byte) : Statement (.outDmaLo v) := fun _ => rfl
theorem outDmaHi (v : Byte) : Statement (.outDmaHi v) := fun _ => rfl
theorem outDiskBlock (v : Byte) : Statement (.outDiskBlock v) := fun _ => rfl
theorem inDiskBlock : Statement (.inDiskBlock) := fun _ => rfl
theorem outConCtrl (v : Byte) : Statement (.outConCtrl v) := fun _ => rfl
theorem inConStatus : Statement (.inConStatus) := fun _ => rfl
theorem inConData : Statement (.inConData) := fun _ => rfl
theorem outConData (v : Byte) : Statement (.outConData v) := fun _ => rfl
theorem inUnmapped (p : Port) : Statement (.inUnmapped p) := fun _ => rfl
theorem outUnmapped (p : Port) (v : Byte) : Statement (.outUnmapped p v) := fun _ => rfl
theorem openRead : Statement (.openRead) := fun _ => rfl
theorem create : Statement (.create) := fun _ => rfl
theorem openAppend : Statement (.openAppend) := fun _ => rfl
theorem seekToStart : Statement (.seekToStart) := fun _ => rfl
theorem close : Statement (.close) := fun _ => rfl
theorem listDirectory : Statement (.listDirectory) := fun _ => rfl
theorem openReadwrite : Statement (.openReadwrite) := fun _ => rfl
theorem seek : Statement (.seek) := fun _ => rfl
theorem cmdReserved (v : Byte) : Statement (.cmdReserved v) := fun _ => rfl
theorem blockRead : Statement (.blockRead) := fun _ => rfl
theorem blockWrite : Statement (.blockWrite) := fun _ => rfl
theorem blkReserved (v : Byte) : Statement (.blkReserved v) := fun _ => rfl

end Sys2Proof.Laws.WordLength
end

