-- ==== Sys2Proof/Tests/Slice0.lean ====
section
/-! SUPPORT. The model's own tests: what WellFormed refuses, words written out from the encoding tables, one step of each
instruction with the values of 95_test_vectors.md (its vector or program in brackets; QUANTUM = 4 where the text says so), and
for every obligation with hypotheses states and operands that meet them. -/

namespace Sys2Proof.Tests

open Sys2Proof.Machine

/-! WellFormed refuses -/

theorem test_wf_refuses_mapped_port_as_unmapped_read : Instr.wf Params.reference (.inUnmapped 0x12#8) = false := by decide
theorem test_wf_refuses_mapped_port_as_unmapped_write : Instr.wf Params.reference (.outUnmapped 0x13#8 0x00#8) = false := by decide
theorem test_wf_refuses_command_code_as_reserved : Instr.wf Params.reference (.cmdReserved 0x08#8) = false := by decide
theorem test_wf_refuses_block_code_as_reserved : Instr.wf Params.reference (.blkReserved 0x01#8) = false := by decide
theorem test_wf_admits_direction_dependent_ports :
    Instr.wf Params.reference (.inUnmapped 0x13#8) = true ∧ Instr.wf Params.reference (.outUnmapped 0x11#8 0xFF#8) = true := by
  decide

/-! Decoding of words written out from R71 to R75 -/

/-- The instruction of a word, `none` where the decoder refuses it. -/
def decoded (f : Format) (l : List Byte) : Option Instr :=
  match decodeBytes Params.reference f l with
  | .ok i => some i
  | .error _ => none

theorem test_decode_bus :
    [[0b01010#8, 0x34#8, 0x12#8, 0x00#8], [0b01001#8, 0x00#8, 0x80#8, 0x5A#8], [0b01000#8, 0x00#8, 0x00#8, 0x00#8],
      [0b10011#8, 0x00#8, 0x00#8, 0x00#8], [0b10100#8, 0x00#8, 0x00#8, 0x00#8], [0b00111#8, 0x80#8, 0x12#8, 0x00#8],
      [0b00101#8, 0x81#8, 0x00#8, 0x48#8], [0b10110#8, 0x00#8, 0x00#8, 0x00#8], [0b10101#8, 0x00#8, 0x00#8, 0x00#8]].map
        (decoded .bus)
      = [Instr.memoryRead 0x1234#16, .memoryWrite 0x8000#16 0x5A#8, .idleMemNostrobe, .idleNorequest, .idleIoNostrobe,
        .ioRead 0x1280#16, .ioWrite 0x0081#16 0x48#8, .ioReadHold, .ioWriteHold].map some := by decide

theorem test_decode_port_in :
    [[0x11#8, 0x00#8, 0x00#8], [0x12#8, 0x00#8, 0x00#8], [0x18#8, 0x00#8, 0x00#8], [0x80#8, 0x00#8, 0x00#8],
      [0x81#8, 0x00#8, 0x00#8], [0x42#8, 0x00#8, 0x00#8]].map (decoded .port)
      = [Instr.inDiskStatus, .inDiskData, .inDiskBlock, .inConStatus, .inConData, .inUnmapped 0x42#8].map some := by decide

theorem test_decode_port_out :
    [[0x10#8, 0x01#8, 0x05#8], [0x12#8, 0x01#8, 0x1A#8], [0x13#8, 0x01#8, 0x41#8], [0x14#8, 0x01#8, 0x01#8],
      [0x15#8, 0x01#8, 0x02#8], [0x19#8, 0x01#8, 0x03#8], [0x16#8, 0x01#8, 0x04#8], [0x17#8, 0x01#8, 0x05#8],
      [0x18#8, 0x01#8, 0x06#8], [0x80#8, 0x01#8, 0x95#8], [0x81#8, 0x01#8, 0x58#8], [0x11#8, 0x01#8, 0x07#8]].map
        (decoded .port)
      = [Instr.outDiskCmd 0x05#8, .outDiskData 0x1A#8, .outDiskFname 0x41#8, .outSeekLo 0x01#8, .outSeekMid 0x02#8,
        .outSeekHi 0x03#8, .outDmaLo 0x04#8, .outDmaHi 0x05#8, .outDiskBlock 0x06#8, .outConCtrl 0x95#8, .outConData 0x58#8,
        .outUnmapped 0x11#8 0x07#8].map some := by decide

theorem test_decode_cmd :
    [[0x01#8], [0x02#8], [0x03#8], [0x04#8], [0x05#8], [0x06#8], [0x07#8], [0x08#8], [0x09#8], [0x00#8]].map (decoded .cmd)
      = [Instr.openRead, .create, .openAppend, .seekToStart, .close, .listDirectory, .openReadwrite, .seek,
        .cmdReserved 0x09#8, .cmdReserved 0x00#8].map some := by decide

theorem test_decode_blk :
    [[0x00#8], [0x01#8], [0x02#8], [0xFF#8]].map (decoded .blk)
      = [Instr.blockRead, .blockWrite, .blkReserved 0x02#8, .blkReserved 0xFF#8].map some := by decide

theorem test_decode_refuses :
    decoded .bus [0b00100000#8, 0x00#8, 0x00#8, 0x00#8] = none ∧ decoded .port [0x10#8, 0x02#8, 0x00#8] = none
      ∧ decoded .cmd [] = none ∧ decoded .blk [0x00#8, 0x00#8] = none := by decide

/-- The opcode table numbers the port in bits 7:0 and the direction in bit 8. -/
theorem test_table_words :
    decodeTableWord 5 0b01010 = some (.memoryRead 0x0000#16) ∧ decodeTableWord 16 0x0111 = some (.outUnmapped 0x11#8 0x00#8)
      ∧ decodeTableWord 16 0x0011 = some .inDiskStatus ∧ decodeTableWord 9 0x0119 = some (.outSeekHi 0x00#8)
      ∧ decodeTableWord 8 0x07 = some .openReadwrite := by decide

/-! States for the tests -/

/-- The reference parameters with the two OPEN ones at values of the vectors, and a quantum of 4. -/
def testParams : Params :=
  { Params.reference with lineTermHead := 0x0A#8, lineTermTail := [], firmwareName := [0x46#8, 0x57#8], quantum := 4 }

/-- A bridge that runs, all else as at reset (10_state.md R44). -/
def running : State := { State.reset with phase := .run, resetLine := false, cfg := testParams }

/-- The DiskSession after reset but for the file. -/
def fileAt (n : Name) (m : AccessMode) (p : Nat) : DiskSession :=
  { DiskSession.created with file := some { name := n, mode := m, pos := p } }

/-- "X" holding three bytes, open. -/
def openX (m : AccessMode) (p : Nat) : State :=
  { running with files := [([0x58#8], [0x11#8, 0x22#8, 0x33#8])], disk := fileAt [0x58#8] m p }

/-- `openX` with the collaborator failing. -/
def failingX (m : AccessMode) (p : Nat) : State :=
  { openX m p with draws := { fsFault := true, removed := true, listing := [] } }

/-- "X" in the store, its name committed, nothing open. -/
def namedX : State :=
  { running with
    files := [([0x58#8], [0x11#8, 0x22#8, 0x33#8])]
    disk := { DiskSession.created with fname := [0x58#8], fnameCommitted := true } }

/-- `namedX` with a handle on "X" and the collaborator failing. -/
def failingNamedX : State :=
  { failingX .r 0 with disk := { fileAt [0x58#8] .r 0 with fname := [0x58#8], fnameCommitted := true } }

/-- A byte pending for the console. -/
def pendingByte : State := { running with con := { Console.created with rxReady := true }, conIn := [0x41#8] }

/-- A name of `n` bytes under way. -/
def namingBytes (n : Nat) : State := { running with disk := { DiskSession.created with fname := List.replicate n 0x41#8 } }

/-- The empty name committed. -/
def namedEmpty : State := { running with disk := { DiskSession.created with fnameCommitted := true } }

/-- A cursor with the last byte of an entry left. -/
def lastOf (rest : List Name) : State :=
  { running with
    disk := { DiskSession.created with dir := some { curHead := 0x0A#8, curTail := [], rest := rest }, error := true } }

/-- A sample that presents an I/O read or write of a port. -/
def ioSample (rd : Bool) (p : Port) (v : Byte) : Sample :=
  { mreq := false, iorq := true, rd := rd, wr := !rd, addr := portAddr p, dataIn := v }

/-- What holds after the service of an instruction. -/
def after (i : Instr) (s : State) (p : State → Bool) : Bool :=
  match exec i s with
  | .next t => p t
  | .fault _ => false
  | .refused _ => false

/-- What holds after one step. -/
def afterStep (s : State) (p : State → Bool) : Bool :=
  match step s with
  | .next t => p t
  | .fault _ => false
  | .refused _ => false

/-- The state after the service of an instruction. -/
def next (i : Instr) (s : State) : State :=
  match exec i s with
  | .next t => t
  | .fault _ => s
  | .refused _ => s

/-! One step of each instruction -/

/-- V20. -/
theorem test_memory_read :
    after (.memoryRead 0x8000#16) { running with mem := [(0x8000, 0x5A#8)], ioLatch := some 0x01#8 }
      (fun t => t.dataDrive == some 0x5A#8 && t.ioLatch == none) = true := by decide
/-- V22, V25. -/
theorem test_memory_write :
    after (.memoryWrite 0x0000#16 0x00#8) { running with mem := [(0, 0xC3#8), (5, 0x07#8)] }
      (fun t => t.mem == [(0, 0x00#8), (5, 0x07#8)] && t.dataDrive == none) = true := by decide
/-- R98. -/
theorem test_idle :
    [Instr.idleMemNostrobe, .idleNorequest, .idleIoNostrobe, .ioWriteHold].all
      (fun i => after i { running with ioLatch := some 0x41#8, conIn := [0x42#8] }
        (fun t => t.ioLatch == none && t.dataDrive == none && t.conIn == [0x42#8])) = true := by decide
/-- V38: the high address byte is ignored. -/
theorem test_io_read_high_byte :
    after (.ioRead 0x1280#16) running (fun t => t.dataDrive == some 0x02#8 && t.ioLatch == some 0x02#8) = true := by decide
/-- P1, line 3. -/
theorem test_io_write :
    after (.ioWrite 0x0081#16 0x41#8) running (fun t => t.conOut == [0x41#8] && t.ioLatch == none) = true := by decide
/-- P4, tick 3: nothing more is taken. -/
theorem test_io_read_hold :
    after .ioReadHold { running with ioLatch := some 0x41#8, conIn := [0x42#8], con := { Console.created with rxReady := true } }
      (fun t => t.dataDrive == some 0x41#8 && t.ioLatch == some 0x41#8 && t.conIn == [0x42#8]) = true := by decide
/-- V8. -/
theorem test_io_read_hold_nothing_latched : after .ioReadHold running (fun t => t.dataDrive == none) = true := by decide
/-- V36. -/
theorem test_con_ctrl :
    after (.outConCtrl 0x03#8) { running with con := { Console.created with ctrl := 0x95#8, rxData := 0x41#8 } }
      (fun t => t.con == { Console.created with ctrl := 0x03#8, rxData := 0x41#8 } && !rie t) = true := by decide
/-- V31. -/
theorem test_con_status :
    after .inConStatus { running with con := { Console.created with rxReady := true }, conIn := [0x0D#8] }
      (fun t => t.dataDrive == some 0x03#8 && t.conIn == [0x0D#8]) = true := by decide
/-- V32. -/
theorem test_con_data :
    after .inConData { running with con := { Console.created with rxReady := true }, conIn := [0x41#8, 0x42#8] }
      (fun t => t.dataDrive == some 0x41#8 && t.conIn == [0x42#8] && t.con.rxData == 0x41#8 && !t.con.rxReady) = true := by
  decide
/-- V33. -/
theorem test_con_data_nothing_pending :
    after .inConData { running with con := { Console.created with rxData := 0x42#8 } }
      (fun t => t.dataDrive == some 0x42#8 && t.con.rxData == 0x42#8) = true := by decide
/-- V34. -/
theorem test_con_data_write :
    after (.outConData 0x69#8) { running with conOut := [0x48#8] }
      (fun t => t.conOut == [0x48#8, 0x69#8] && t.con.txData == 0x69#8) = true := by decide
/-- V49c. -/
theorem test_unmapped :
    after (.inUnmapped 0x42#8) running (fun t => t.dataDrive == some 0xFF#8 && t.disk == running.disk) = true
      ∧ after (.outUnmapped 0x11#8 0x00#8) { running with disk := { DiskSession.created with error := true } }
        (fun t => t.disk.error) = true := by decide
/-- V40, V48. -/
theorem test_disk_status :
    after .inDiskStatus running (fun t => t.dataDrive == some 0x01#8) = true
      ∧ after .inDiskStatus (openX .r 0) (fun t => t.dataDrive == some 0x81#8) = true := by decide
/-- V49b. -/
theorem test_disk_status_error :
    after .inDiskStatus { openX .r 0 with disk := { (openX .r 0).disk with error := true } }
      (fun t => t.dataDrive == some 0x82#8) = true := by decide
/-- V46: the thirteenth byte is dropped. -/
theorem test_fname_full :
    after (.outDiskFname 0x4D#8) (namingBytes 12) (fun t => t.disk.fname == List.replicate 12 0x41#8) = true := by decide
/-- V45: a byte after the terminator begins a new name. -/
theorem test_fname_restart : after (.outDiskFname 0x42#8) namedX
    (fun t => t.disk.fname == [0x42#8] && !t.disk.fnameCommitted) = true := by decide
/-- V42. -/
theorem test_seek_mid :
    after (.outSeekMid 0xFF#8) { running with disk := { DiskSession.created with seekHi := 0x01#8, seekMid := 0x40#8 } }
      (fun t => seekPosition t.disk == 0x01FF00#24) = true := by decide
/-- V41. -/
theorem test_seek_lo_hi :
    after (.outSeekHi 0x01#8) { running with disk := { DiskSession.created with seekMid := 0x40#8 } }
      (fun t => seekPosition t.disk == 0x014000#24) = true
      ∧ after (.outSeekLo 0x80#8) running (fun t => seekPosition t.disk == 0x000080#24) = true := by decide
/-- V43 and program P5, line 2. -/
theorem test_dma :
    after (.outDmaLo 0x80#8) running (fun t => dmaAddress t.disk == 0x0080#16) = true
      ∧ after (.outDmaHi 0x40#8) running (fun t => dmaAddress t.disk == 0x4000#16) = true := by decide
/-- V48. -/
theorem test_data_read_file : after .inDiskData (openX .r 1)
    (fun t => t.dataDrive == some 0x22#8 && t.disk == (openX .r 2).disk) = true := by decide
/-- P3 after its reads 9 and 17. -/
theorem test_data_read_listing :
    after .inDiskData (lastOf [[0x42#8]])
      (fun t => t.dataDrive == some 0x0A#8
        && t.disk.dir == some { curHead := 0x42#8, curTail := [0x0A#8], rest := [] }) = true
      ∧ after .inDiskData (lastOf []) (fun t => t.disk.dir == none && !t.disk.error) = true := by decide
/-- V49. -/
theorem test_data_write :
    after (.outDiskData 0x1B#8) { openX .w 1 with files := [([0x58#8], [0x1A#8])] }
      (fun t => t.files == [([0x58#8], [0x1A#8, 0x1B#8])] && t.disk == (openX .w 2).disk) = true := by decide
/-- V49b. -/
theorem test_data_write_against_mode : after (.outDiskData 0x55#8) (openX .r 0)
    (fun t => t.files == (openX .r 0).files && t.disk.error) = true := by decide
/-- P5, line 4. -/
theorem test_block_result :
    after .inDiskBlock { running with disk := { DiskSession.created with blkResult := 0x01#8 } }
      (fun t => t.dataDrive == some 0x01#8) = true := by decide
/-- P5, line 6. -/
theorem test_command_write : after (.outDiskCmd 0x08#8) running
    (fun t => t.disk == { DiskSession.created with error := true, lastCmd := 0x08#8 }) = true := by decide
/-- V113. -/
theorem test_block_port_write : after (.outDiskBlock 0x02#8) (openX .r 0)
    (fun t => t.disk == { (openX .r 0).disk with error := true, blkResult := 0x01#8 }) = true := by decide
/-- V70. -/
theorem test_open_read : after .openRead namedX
    (fun t => t.disk == { fileAt [0x58#8] .r 0 with lastCmd := 0x01#8 }) = true := by decide
/-- V47: the empty name is consumed and fails. -/
theorem test_open_read_empty_name :
    after .openRead namedEmpty (fun t => t.disk == { DiskSession.created with lastCmd := 0x01#8, error := true }) = true := by decide
/-- V73. -/
theorem test_create : after .create namedX
    (fun t => t.files == [([0x58#8], [])] && t.disk == { fileAt [0x58#8] .w 0 with lastCmd := 0x02#8 }) = true := by decide
/-- V116: the file is removed, and the handle on it closed. -/
theorem test_create_fails :
    after .create failingNamedX
      (fun t => t.files == [] && t.disk == { DiskSession.created with lastCmd := 0x02#8, error := true }) = true := by decide
/-- V75. -/
theorem test_open_append : after .openAppend namedX
    (fun t => t.disk == { fileAt [0x58#8] .w 3 with lastCmd := 0x03#8 }) = true := by decide
/-- V77. -/
theorem test_open_readwrite : after .openReadwrite namedX
    (fun t => t.disk == { fileAt [0x58#8] .rw 0 with lastCmd := 0x07#8 }) = true := by decide
/-- V78. -/
theorem test_seek_to_start : after .seekToStart (openX .r 2)
    (fun t => t.disk == { (openX .r 0).disk with lastCmd := 0x04#8 }) = true := by decide
/-- V80. -/
theorem test_seek :
    after .seek { openX .r 0 with disk := { (openX .r 0).disk with seekLo := 0x80#8 } }
      (fun t => t.disk == { (openX .r 128).disk with seekLo := 0x80#8, lastCmd := 0x08#8 }) = true := by decide
/-- E1, its last row; V114: the block result stays. -/
theorem test_close :
    after .close { openX .rw 1 with disk := { (openX .rw 1).disk with
        dir := (lastOf []).disk.dir, error := true, blkResult := 0x01#8 } }
      (fun t => t.disk == { DiskSession.created with lastCmd := 0x05#8, blkResult := 0x01#8 }) = true := by decide
/-- P3, line 1: the dot names are left out, the drawn order is kept. -/
theorem test_list_directory :
    after .listDirectory { running with
        files := [([0x41#8], []), ([0x42#8], [])]
        draws := { fsFault := false, removed := false, listing := [[0x2E#8], [0x42#8], [0x2E#8, 0x2E#8], [0x41#8]] } }
      (fun t => t.disk.dir == some { curHead := 0x42#8, curTail := [0x0A#8], rest := [[0x41#8]] }) = true := by decide
/-- R152. -/
theorem test_reserved_command : after (.cmdReserved 0x09#8) running
    (fun t => t.disk == { DiskSession.created with lastCmd := 0x09#8, error := true }) = true := by decide
/-- V100 and V103 with QUANTUM = 4: zero fill after the end of the file, and the wrap of the address. -/
theorem test_block_read :
    after .blockRead { openX .r 1 with disk := { (openX .r 1).disk with dmaHi := 0xFF#8, dmaLo := 0xFE#8 } }
      (fun t => t.mem == [(0, 0x00#8), (1, 0x00#8), (0xFFFE, 0x22#8), (0xFFFF, 0x33#8)]
        && t.disk.file == (openX .r 5).disk.file && t.disk.blkResult == 0x00#8 && !t.disk.error) = true := by decide
/-- V109. -/
theorem test_block_read_against_mode : after .blockRead (openX .w 0)
    (fun t => t.disk == { (openX .w 0).disk with error := true, blkResult := 0x01#8 } && t.mem == []) = true := by decide
/-- V112 with QUANTUM = 4: the gap is filled with zero bytes. -/
theorem test_block_write :
    after .blockWrite { openX .rw 4 with mem := [(0, 0xB0#8), (1, 0xB1#8), (2, 0xB2#8), (3, 0xB3#8)] }
      (fun t => t.files == [([0x58#8], [0x11#8, 0x22#8, 0x33#8, 0x00#8, 0xB0#8, 0xB1#8, 0xB2#8, 0xB3#8])]
        && t.disk == (openX .rw 8).disk) = true := by decide
/-- V106. -/
theorem test_block_write_no_file : after .blockWrite running
    (fun t => t.disk == { DiskSession.created with error := true, blkResult := 0x01#8 }) = true := by decide
/-- R153. -/
theorem test_reserved_block_byte : after (.blkReserved 0xFF#8) (openX .r 1)
    (fun t => t.disk == { (openX .r 1).disk with error := true, blkResult := 0x01#8 }) = true := by decide

/-! Steps -/

/-- `running` with an input to come. -/
def presented (s : State) (S : Sample) (arriving : List Byte) : State :=
  { s with inputs := [{ Input.presenting S with arriving := arriving }] }

/-- P4, tick 2. -/
theorem test_step_io_read :
    afterStep { presented running (ioSample true 0x81#8 0x00#8) [0x41#8, 0x42#8] with
        con := { Console.created with ctrl := 0x80#8 } }
      (fun t => t.driven == some 0x41#8 && t.dataDrive == none && t.conIn == [0x42#8] && t.intLine && !t.con.rxReady
        && t.ioLatch == some 0x41#8 && t.prevIorq && !t.clk) = true := by decide
/-- V11, tick 2: nothing is sent. -/
theorem test_step_held_write :
    afterStep { presented running (ioSample false 0x81#8 0x42#8) [] with prevIorq := true, conOut := [0x41#8] }
      (fun t => t.conOut == [0x41#8] && t.prevIorq) = true := by decide
/-- V55, tick t + 1: the interrupt line does not remember. -/
theorem test_step_interrupt_drops :
    afterStep { presented running (ioSample true 0x80#8 0x00#8) [] with
        intLine := true, con := { Console.created with ctrl := 0x80#8 } } (fun t => !t.intLine) = true := by decide

/-- V30 with a stale receive-ready: with no input pending the bit is 0 on a tick of any class (E6). -/
theorem test_step_rx_ready_drops :
    [ioSample true 0x80#8 0x00#8, ioSample true 0x81#8 0x00#8, { ioSample true 0x80#8 0x00#8 with iorq := false }].all
      (fun S => afterStep { presented running S [] with con := { Console.created with rxReady := true } }
        (fun t => !t.con.rxReady)) = true := by decide

/-- Power-on with the parameters and a store of the tests. -/
def poweredOn (files : Files) (e : Input) : State := { State.reset with cfg := testParams, files := files, inputs := [e] }

/-- An input of the boot stage. -/
def bootInput (initOk : Bool) : Input :=
  { Input.presenting (ioSample true 0x80#8 0x00#8) with fsInitOk := initOk }

/-- V60. -/
theorem test_boot :
    afterStep (poweredOn [([0x46#8, 0x57#8], [0xC3#8, 0x00#8, 0x01#8])] (bootInput true))
      (fun t => t.mem == [(0, 0xC3#8), (1, 0x00#8), (2, 0x01#8)] && t.phase == .run && !t.resetLine) = true := by decide
/-- V61, V62. -/
theorem test_boot_halts :
    afterStep (poweredOn [] (bootInput true)) (fun t => t.phase == .halt && t.resetLine) = true
      ∧ afterStep (poweredOn [([0x46#8, 0x57#8], [0xC3#8])] (bootInput false))
        (fun t => t.phase == .halt && t.resetLine && t.mem == []) = true := by decide
/-- R184. -/
theorem test_full_reset :
    afterStep { openX .r 1 with
        mem := [(0, 0xC3#8)], inputs := [{ bootInput true with systemReset := true }] }
      (fun t => t.phase == .boot && t.mem == [] && t.disk == DiskSession.created && t.files == (openX .r 1).files
        && t.powerOns == 1) = true := by decide
/-- The first step after a word is placed runs it. -/
theorem test_fetch_word :
    afterStep (State.reset.withFetchWord 16 0x0042) (fun t => t.driven == some 0xFF#8) = true
      ∧ afterStep (State.reset.withFetchWord 8 0x07) (fun t => t.disk.lastCmd == 0x07#8 && t.disk.error) = true := by decide

/-! Witnesses: for each obligation with hypotheses, states and operands that meet them, every clause apart -/

/-- The parameters of the reference table are a choice the spec allows, and so are the ones of the tests. -/
theorem witness_valid_params : Params.reference.valid = true ∧ testParams.valid = true := by decide

theorem witness_MemoryWriteStoresOneByte :
    0x0000 % Config.memSize ≠ (0xFFFF#16 : Addr).toNat ∧ 0x10000 % Config.memSize ≠ (0xFFFF#16 : Addr).toNat := by decide

theorem witness_IdleAndWriteHoldOnlyClearTheLatch :
    Instr.ioWriteHold ∈ [Instr.idleMemNostrobe, .idleNorequest, .idleIoNostrobe, .ioWriteHold] := by decide

theorem witness_ReadHoldDrivesTheLatchedByteAgain :
    ({ running with ioLatch := some 0xFF#8 }.ioLatch = some 0xFF#8 ∧ running.cfg.ioReadHoldDrive = true)
      ∧ running.ioLatch = none
      ∧ { running with cfg := { testParams with ioReadHoldDrive := false } }.cfg.ioReadHoldDrive = false := by decide

/-- V38 and the ends of the high byte: three addresses with one low byte, and one with another. -/
theorem witness_IoReadRunsItsPortOperation_IoWriteRunsItsPortOperation :
    (0x1280#16 : Addr).toNat % 256 = (0x0080#16 : Addr).toNat % 256
      ∧ (0xFF80#16 : Addr).toNat % 256 = (0x0080#16 : Addr).toNat % 256
      ∧ (0x0081#16 : Addr).toNat % 256 ≠ (0x0080#16 : Addr).toNat % 256 := by decide

/-- The ports next to the mapped ones are unmapped in both directions. -/
theorem witness_UnmappedPortAccessChangesNothing :
    ([0x0F#8, 0x1A#8, 0x7F#8, 0x82#8].all
      (fun p => decodePortIn Params.reference p == .unmapped && decodePortOut Params.reference p == .unmapped)) = true := by
  decide

theorem witness_ConsoleStatusReadShowsTheFlags :
    running.cfg.cstatRdrf ≠ running.cfg.cstatTdre ∧ running.cfg.cstatRdrf = 0 ∧ running.cfg.cstatTdre = 1
      ∧ running.cfg.cstatFixed = 0x00#8 ∧ running.con.tdre = true := by decide

theorem witness_ConsoleDataReadTakesOneByte :
    running.con.rxReady = false ∧ (pendingByte.con.rxReady = true ∧ pendingByte.conIn = 0x41#8 :: []) := by decide

theorem witness_DiskStatusReadShowsTheFlags :
    [running.cfg.dstatReady, running.cfg.dstatError, running.cfg.dstatData].Nodup
      ∧ running.cfg.dstatReady = 0 ∧ running.cfg.dstatError = 1 ∧ running.cfg.dstatData = 7 := by decide

/-- A name of 11 bytes has room for one more, one of 12 has none. -/
theorem witness_FnameWriteFillsTheAccumulator :
    namedX.disk.fnameCommitted = true
      ∧ ((namingBytes 11).disk.fnameCommitted = false ∧ (namingBytes 11).disk.fname.length < (namingBytes 11).cfg.fnameMax)
      ∧ ((namingBytes 12).disk.fnameCommitted = false
        ∧ (namingBytes 12).cfg.fnameMax ≤ (namingBytes 12).disk.fname.length) := by decide

theorem witness_DataReadServesAnOpenListing :
    (∃ k, { running with disk := { DiskSession.created with
        dir := some { curHead := 0x41#8, curTail := [0x0A#8], rest := [] } } }.disk.dir = some k ∧ k.curTail = 0x0A#8 :: [])
      ∧ (∃ k, (lastOf [[0x42#8]]).disk.dir = some k ∧ k.curTail = [] ∧ k.rest = [0x42#8] :: [])
      ∧ (∃ k, (lastOf []).disk.dir = some k ∧ k.curTail = [] ∧ k.rest = []) :=
  ⟨⟨_, rfl, rfl⟩, ⟨_, rfl, rfl, rfl⟩, ⟨_, rfl, rfl, rfl⟩⟩

/-- The last byte of the file is still delivered; at its end, with a handle for writing only and with none, nothing is. -/
theorem witness_DataReadServesTheFile :
    (openX .r 2).disk.dir = none
      ∧ (∃ h, (openX .r 2).disk.file = some h ∧ h.mode = .r ∧ h.pos < fsLen (openX .r 2) h.name
        ∧ (openX .r 2).draws.fsFault = false)
      ∧ (∃ h, (failingX .rw 0).disk.file = some h ∧ h.mode = .rw ∧ h.pos < fsLen (failingX .rw 0) h.name
        ∧ (failingX .rw 0).draws.fsFault = true)
      ∧ (∃ h, (openX .r 3).disk.file = some h ∧ fsLen (openX .r 3) h.name ≤ h.pos)
      ∧ (∃ h, (openX .w 0).disk.file = some h ∧ h.mode = .w) ∧ running.disk.file = none :=
  ⟨rfl, ⟨_, rfl, rfl, by decide, rfl⟩, ⟨_, rfl, rfl, by decide, rfl⟩, ⟨_, rfl, by decide⟩, ⟨_, rfl, rfl⟩, rfl⟩

theorem witness_DataWriteStoresOneFileByte :
    (∃ h, (openX .w 3).disk.file = some h ∧ h.mode ≠ .r ∧ (openX .w 3).draws.fsFault = false)
      ∧ (∃ h, (openX .r 0).disk.file = some h ∧ (openX .r 0).cfg.modeStrict = true ∧ h.mode = .r)
      ∧ (∃ h, (failingX .w 0).disk.file = some h ∧ (failingX .w 0).draws.fsFault = true)
      ∧ running.disk.file = none :=
  ⟨⟨_, rfl, by decide, rfl⟩, ⟨_, rfl, rfl, rfl⟩, ⟨_, rfl, rfl⟩, rfl⟩

theorem witness_BlockResultReadShowsTheResult :
    Params.reference.valid = true ∧ exec .blockRead running = .next (next .blockRead running)
      ∧ (next .blockRead running).disk.blkResult ≠ running.disk.blkResult :=
  ⟨by decide, rfl, by decide⟩

theorem witness_BlockWritePortRunsItsOperation : (0x02#8 : Byte) ≠ 0x00#8 ∧ (0x02#8 : Byte) ≠ 0x01#8 := by decide

theorem witness_OpenWithoutACommittedNameOnlySetsError :
    running.disk.fnameCommitted = false
      ∧ (Instr.create, running.cfg.cmdCreate) ∈ [(Instr.openRead, running.cfg.cmdOpenRead), (.create, running.cfg.cmdCreate),
        (.openAppend, running.cfg.cmdOpenAppend), (.openReadwrite, running.cfg.cmdOpenReadwrite)] := by decide

theorem witness_OpenOfAnExistingFileSucceeds :
    namedX.disk.fnameCommitted = true ∧ namedX.disk.fname ≠ [] ∧ fsExists namedX namedX.disk.fname = true
      ∧ namedX.draws.fsFault = false
      ∧ (Instr.openAppend, namedX.cfg.cmdOpenAppend, AccessMode.w, 3)
        ∈ [(Instr.openRead, namedX.cfg.cmdOpenRead, AccessMode.r, 0),
          (.openAppend, namedX.cfg.cmdOpenAppend, .w, fsLen namedX namedX.disk.fname),
          (.openReadwrite, namedX.cfg.cmdOpenReadwrite, .rw, 0)] := by decide

/-- The empty name; an absent file; a collaborator failure, with a handle open on an existing file. -/
theorem witness_FailedOpenKeepsTheHandle :
    (namedEmpty.disk.fnameCommitted = true ∧ namedEmpty.disk.fname = [] ∧ namedEmpty.disk.file = none)
      ∧ ({ namedX with files := [] }.disk.fnameCommitted = true ∧ { namedX with files := [] }.disk.file = none
        ∧ fsExists { namedX with files := [] } { namedX with files := [] }.disk.fname = false ∧ Instr.openRead ≠ .create)
      ∧ (failingNamedX.disk.fnameCommitted = true ∧ failingNamedX.draws.fsFault = true
        ∧ ∀ h, failingNamedX.disk.file = some h → fsExists failingNamedX h.name = true) :=
  ⟨by decide, by decide, rfl, rfl, fun h hh => by cases hh; decide⟩

theorem witness_CreateMakesAnEmptyFile :
    namedX.disk.fnameCommitted = true ∧ namedX.disk.fname ≠ [] ∧ namedX.draws.fsFault = false := by decide

theorem witness_FailedCreateMayRemoveTheOldFile :
    failingNamedX.files.wf = true ∧ failingNamedX.disk.fnameCommitted = true ∧ failingNamedX.disk.fname ≠ []
      ∧ failingNamedX.draws.fsFault = true
      ∧ (∃ h, failingNamedX.disk.file = some h ∧ h.name = failingNamedX.disk.fname)
      ∧ { failingNamedX with disk := namedX.disk }.disk.file = none :=
  ⟨by decide, rfl, by decide, rfl, ⟨_, rfl, rfl⟩, rfl⟩

/-- A handle and no failure; no handle; a failure. The same states serve SEEK and SEEK_TO_START. -/
theorem witness_SeekToStartResetsThePosition_SeekMovesToTheRegister :
    ((openX .r 2).disk.file.isSome = true ∧ (openX .r 2).draws.fsFault = false) ∧ running.disk.file = none
      ∧ (failingX .r 2).draws.fsFault = true ∧ (openX .r 2).cfg.valid = true := by decide

/-- Two names, listed as drawn and, with a draw that is no order of them, as the store has them; no name; a failure. -/
theorem witness_ListDirectoryOpensACursor_ListingDeliversEveryEntry :
    (namedX.draws.fsFault = false ∧ listable (fsList namedX) = [0x58#8] :: [])
      ∧ listingAllowed [([0x41#8], []), ([0x42#8], [])] [[0x2E#8], [0x42#8], [0x41#8]] = true
      ∧ listingAllowed [([0x41#8], [])] [] = false
      ∧ listable (fsList running) = [] ∧ (failingX .r 0).draws.fsFault = true
      ∧ exec .listDirectory namedX = .next (next .listDirectory namedX) :=
  ⟨by decide, by decide, by decide, by decide, rfl, rfl⟩

theorem witness_BlockReadMovesAQuantum :
    (∃ h, (openX .r 1).disk.file = some h ∧ h.mode ≠ .w) ∧ (openX .r 1).cfg.quantum ≤ Config.memSize
      ∧ Params.reference.quantum ≤ Config.memSize ∧ (openX .r 1).draws.fsFault = false
      ∧ (3 < (openX .r 1).cfg.quantum ∧ ¬ 4 < (openX .r 1).cfg.quantum) :=
  ⟨⟨_, rfl, by decide⟩, by decide, by decide, rfl, by decide⟩

theorem witness_BlockWriteMovesAQuantum :
    (∃ h, (openX .rw 4).disk.file = some h ∧ h.mode ≠ .r ∧ (3 < h.pos ∧ h.pos + (openX .rw 4).cfg.quantum ≤ 8))
      ∧ (openX .rw 4).draws.fsFault = false :=
  ⟨⟨_, rfl, by decide, by decide⟩, rfl⟩

theorem witness_FailedBlockOperationMovesNothing :
    running.disk.file = none ∧ (failingX .rw 0).draws.fsFault = true ∧ (openX .r 0).cfg.modeStrict = true
      ∧ (∃ h, (openX .r 0).disk.file = some h ∧ h.mode = .r) ∧ (∃ h, (openX .w 0).disk.file = some h ∧ h.mode = .w) :=
  ⟨rfl, rfl, rfl, ⟨_, rfl, rfl⟩, ⟨_, rfl, rfl⟩⟩

/-- `u` is the state after the write with the position moved back. -/
theorem witness_BlockReadReturnsWhatBlockWriteStored :
    ∃ h, (openX .rw 0).disk.file = some h ∧ h.mode ≠ .r ∧ (openX .rw 0).draws.fsFault = false
      ∧ (openX .rw 0).cfg.quantum ≤ Config.memSize
      ∧ exec .blockWrite (openX .rw 0) = .next (next .blockWrite (openX .rw 0))
      ∧ ({ next .blockWrite (openX .rw 0) with disk := fileAt [0x58#8] .rw 0 }.disk.file = some h)
      ∧ { next .blockWrite (openX .rw 0) with disk := fileAt [0x58#8] .rw 0 }.cfg = (openX .rw 0).cfg
      ∧ { next .blockWrite (openX .rw 0) with disk := fileAt [0x58#8] .rw 0 }.draws.fsFault = false :=
  ⟨_, rfl, by decide, rfl, by decide, rfl, rfl, rfl, rfl⟩

theorem witness_OnlyTheListedOperationsTouchTheErrorBit :
    (running.disk.error = false ∧ (next .blockRead running).disk.error = true
        ∧ exec .blockRead running = .next (next .blockRead running))
      ∧ ((lastOf []).disk.error = true ∧ (next .inDiskData (lastOf [])).disk.error = false
        ∧ exec .inDiskData (lastOf []) = .next (next .inDiskData (lastOf []))) :=
  ⟨⟨rfl, rfl, rfl⟩, rfl, rfl, rfl⟩

theorem witness_OnlyMemoryWriteAndBlockReadWriteMemory :
    exec .blockWrite (openX .rw 0) = .next (next .blockWrite (openX .rw 0)) ∧ leaf testParams .blockWrite ≠ .blockRead
      ∧ (∀ a v, leaf testParams .blockWrite ≠ .memoryWrite a v) :=
  ⟨rfl, by decide, fun _ _ h => by cases h⟩

theorem witness_OnlyTheListedOperationsReachTheCollaborators :
    (exec .create namedX = .next (next .create namedX) ∧ (next .create namedX).files ≠ namedX.files)
      ∧ (next (.outConData 0x48#8) running).conOut ≠ running.conOut
      ∧ (next .inConData pendingByte).conIn ≠ pendingByte.conIn :=
  ⟨⟨rfl, by decide⟩, by decide, by decide⟩

theorem witness_SeekAndDmaPersist :
    exec (.outSeekMid 0x01#8) running = .next (next (.outSeekMid 0x01#8) running)
      ∧ seekPosition (next (.outSeekMid 0x01#8) running).disk ≠ seekPosition running.disk
      ∧ dmaAddress (next (.outDmaHi 0x01#8) running).disk ≠ dmaAddress running.disk :=
  ⟨rfl, by decide, by decide⟩

theorem witness_StepServicesTheSelectedRow :
    (presented running (ioSample true 0x81#8 0x00#8) []).phase = .run
      ∧ (nextInput (presented running (ioSample true 0x81#8 0x00#8) [])).systemReset = false
      ∧ ∃ t, exec (decodeBus false (ioSample true 0x81#8 0x00#8))
        (beginTick (takeInput (presented running (ioSample true 0x81#8 0x00#8) []))) = .next t :=
  ⟨rfl, rfl, _, rfl⟩

/-- A word of each format: a held read, a port operation, a command, a block operation. -/
theorem witness_StepRunsThePresentedInstruction :
    running.cfg.valid = true ∧ running.phase = .run
      ∧ (Instr.ioReadHold.wf testParams = true
        ∧ presentWord testParams (encode testParams .ioReadHold) = some (true, sampleOf 0b10110#5 0x0000#16 0x00#8))
      ∧ (presentWord testParams (encode testParams .inConData) = some (false, sampleOf 0b00110#5 0x0081#16 0x00#8))
      ∧ (presentWord testParams (encode testParams .close) = some (false, sampleOf 0b00101#5 0x0010#16 0x05#8))
      ∧ (presentWord testParams (encode testParams .blockWrite) = some (false, sampleOf 0b00101#5 0x0018#16 0x01#8))
      ∧ (presented running (sampleOf 0b00101#5 0x0018#16 0x01#8) []).inputs
        = [Input.presenting (sampleOf 0b00101#5 0x0018#16 0x01#8)]
      ∧ (Input.presenting (sampleOf 0b00101#5 0x0018#16 0x01#8)).systemReset = false ∧ running.prevIorq = false := by decide

/-- One vector of each row. -/
theorem witness_BusTableSelectsTheRow :
    busRows.all (fun r => r.2 &&& r.1 == r.2) = true ∧ (0b11111#5 &&& 0b01010#5 = 0b01010#5)
      ∧ (0b10011#5 &&& 0b01100#5 = 0b00000#5) ∧ (0b10111#5 &&& 0b11110#5 = 0b10110#5) := by decide

theorem witness_RunningBridgeNeverStops :
    running.phase = .run ∧ (nextInput (presented running (ioSample true 0x80#8 0x00#8) [])).systemReset = false := by decide

/-- A status read with a byte pending and with none, and a data read. -/
theorem witness_InterruptLineTracksTheLiveCondition :
    ((presented running (ioSample true 0x80#8 0x00#8) [0x41#8]).phase = .run
        ∧ (nextInput (presented running (ioSample true 0x80#8 0x00#8) [0x41#8])).systemReset = false
        ∧ (nextInput (presented running (ioSample true 0x80#8 0x00#8) [0x41#8])).arriving ≠ []
        ∧ leaf testParams (decodeBus false (ioSample true 0x80#8 0x00#8)) ≠ .inConData)
      ∧ ((presented running (ioSample true 0x80#8 0x00#8) []).phase = .run
        ∧ (nextInput (presented running (ioSample true 0x80#8 0x00#8) [])).systemReset = false
        ∧ (nextInput (presented running (ioSample true 0x80#8 0x00#8) [])).arriving = [])
      ∧ leaf testParams (decodeBus false (ioSample true 0x81#8 0x00#8)) = .inConData := by decide

theorem witness_TickEndsWithTheBusReleased :
    (presented running (ioSample true 0x80#8 0x00#8) []).dataDrive = none
      ∧ afterStep (presented running (ioSample true 0x80#8 0x00#8) []) (fun t => t.driven != none) = true := by decide

theorem witness_HeldRequestIsNotServicedAgain :
    { presented running (ioSample false 0x81#8 0x42#8) [] with prevIorq := true }.phase = .run
      ∧ { presented running (ioSample false 0x81#8 0x42#8) [] with prevIorq := true }.prevIorq = true
      ∧ (nextInput (presented running (ioSample false 0x81#8 0x42#8) [])).systemReset = false
      ∧ (nextInput (presented running (ioSample false 0x81#8 0x42#8) [])).sample.mreq = false
      ∧ (nextInput (presented running (ioSample false 0x81#8 0x42#8) [])).sample.iorq = true := by decide

/-- The empty image is an image. -/
theorem witness_BootLoadsTheImageAndReleases :
    (poweredOn [([0x46#8, 0x57#8], [])] (bootInput true)).phase = .boot
      ∧ (bootInput true).systemReset = false ∧ (bootInput true).fsInitOk = true ∧ (bootInput true).draws.fsFault = false
      ∧ (poweredOn [([0x46#8, 0x57#8], [])] (bootInput true)).files.find? testParams.firmwareName = some []
      ∧ (poweredOn [([0x46#8, 0x57#8], [0xC3#8])] (bootInput true)).files.find? testParams.firmwareName = some [0xC3#8] := by
  decide

theorem witness_FailedBootHaltsForGood :
    ((poweredOn [] (bootInput false)).phase = .boot ∧ (nextInput (poweredOn [] (bootInput false))).systemReset = false
        ∧ (nextInput (poweredOn [] (bootInput false))).fsInitOk = false)
      ∧ ((nextInput (poweredOn [] (bootInput true))).systemReset = false
        ∧ (poweredOn [] (bootInput true)).files.find? (poweredOn [] (bootInput true)).cfg.firmwareName = none)
      ∧ (nextInput (poweredOn [] { bootInput true with
          draws := { fsFault := true, removed := false, listing := [] } })).draws.fsFault = true
      ∧ ({ poweredOn [] (bootInput true) with phase := .halt }.phase = .halt
        ∧ (nextInput { poweredOn [] (bootInput true) with phase := .halt }).systemReset = false) := by decide

/-- An image of one byte more than the Memory Array is refused. -/
theorem witness_FailedBootHaltsForGood_too_long :
    (poweredOn [([0x46#8, 0x57#8], List.replicate 65537 0x00#8)] (bootInput true)).files.find? testParams.firmwareName
        = some (List.replicate 65537 0x00#8)
      ∧ Config.memSize < (List.replicate 65537 (0x00#8 : Byte)).length :=
  ⟨rfl, by rw [List.length_replicate]; decide⟩

theorem witness_FullResetIsANewPowerOn :
    (nextInput { running with inputs := [{ bootInput true with systemReset := true }] }).systemReset = true := by decide

/-- The invariant holds of a running bridge with a file, a latched byte and a written byte, and its next step is a next state. -/
theorem witness_EveryStepKeepsTheInvariant :
    Invariant { presented (openX .r 1) (ioSample true 0x12#8 0x00#8) [] with mem := [(0, 0xC3#8)] }
      ∧ ∃ t, step { presented (openX .r 1) (ioSample true 0x12#8 0x00#8) [] with mem := [(0, 0xC3#8)] } = .next t :=
  ⟨{ cfg_valid := by decide
     mem_wf := by decide
     files_wf := by decide
     fname_bound := by decide
     fname_nonzero := by decide
     file_exists := fun h hh => by cases hh; decide
     dir_names := fun k hk => by cases hk
     tdre_set := rfl
     blk_result := .inl rfl
     bus_idle := ⟨rfl, rfl⟩
     reset_line := by decide
     int_line := fun h => absurd rfl h
     latch_held := by decide }, _, rfl⟩

theorem witness_DecodingAnEncodedWordGivesItBack_PresentedTickDecodesToTheInstruction :
    Params.reference.valid = true ∧ Instr.wf Params.reference (.inUnmapped 0xFF#8) = true
      ∧ Instr.wf Params.reference (.cmdReserved 0x09#8) = true ∧ Instr.wf Params.reference (.blkReserved 0x02#8) = true
      ∧ Instr.wf Params.reference (.memoryWrite 0xFFFF#16 0xFF#8) = true := by decide

end Sys2Proof.Tests
end

/-! The BUS table (30_encoding.md R71). Two rows whose masks share a bit where their matches differ exclude each other; by
that one fact each row's condition rules out every row the decoder tests before it. -/

namespace Sys2Proof

theorem busRowApplies_iff (mask pattern v : BitVec 5) : busRowApplies mask pattern v = true ↔ v &&& mask = pattern := by
  simp [busRowApplies]

theorem busRowApplies_of_match {mask pattern v : BitVec 5} (h : v &&& mask = pattern) :
    busRowApplies mask pattern v = true :=
  (busRowApplies_iff mask pattern v).2 h

/-- Rows are disjoint when some bit, in both masks, has to be 0 for the one and 1 for the other. -/
theorem busRowApplies_false_of_clash {mask pattern v : BitVec 5} (h : v &&& mask = pattern) {mask' pattern' : BitVec 5}
    (clash : mask &&& mask' &&& (pattern ^^^ pattern') ≠ 0#5) : busRowApplies mask' pattern' v = false := by
  refine Bool.eq_false_iff.2 fun happ => ?_
  have h' : v &&& mask' = pattern' := (busRowApplies_iff mask' pattern' v).1 happ
  have agree : mask &&& mask' &&& (pattern ^^^ pattern') = 0#5 := by
    subst h h'
    ext i hi
    cases hm : mask[i] <;> cases hm' : mask'[i] <;> simp [hm, hm']
  exact clash agree

/-- R71: "the rows are disjoint and cover all 32 vectors". -/
theorem busRows_exactly_one_applies : ∀ v : BitVec 5, (busRows.filter (fun r => v &&& r.1 == r.2)).length = 1 := by
  decide

/-! What the decoder selects, row by row: the rows tested before are skipped by `busRowApplies_false_of_clash`. -/

section decodeVector
variable {v : BitVec 5} (a : Addr) (d : Byte)

theorem decodeVector_memoryRead (h : v &&& 0b01010#5 = 0b01010#5) : decodeVector v a d = .memoryRead a := by
  rw [decodeVector, if_pos (busRowApplies_of_match h)]

theorem decodeVector_memoryWrite (h : v &&& 0b01011#5 = 0b01001#5) : decodeVector v a d = .memoryWrite a d := by
  simp (disch := decide) [decodeVector, busRowApplies_false_of_clash h, busRowApplies_of_match h]

theorem decodeVector_idleMemNostrobe (h : v &&& 0b01011#5 = 0b01000#5) : decodeVector v a d = .idleMemNostrobe := by
  simp (disch := decide) [decodeVector, busRowApplies_false_of_clash h, busRowApplies_of_match h]

theorem decodeVector_idleNorequest (h : v &&& 0b01100#5 = 0b00000#5) : decodeVector v a d = .idleNorequest := by
  simp (disch := decide) [decodeVector, busRowApplies_false_of_clash h, busRowApplies_of_match h]

theorem decodeVector_idleIoNostrobe (h : v &&& 0b01111#5 = 0b00100#5) : decodeVector v a d = .idleIoNostrobe := by
  simp (disch := decide) [decodeVector, busRowApplies_false_of_clash h, busRowApplies_of_match h]

theorem decodeVector_ioRead (h : v &&& 0b11110#5 = 0b00110#5) : decodeVector v a d = .ioRead a := by
  simp (disch := decide) [decodeVector, busRowApplies_false_of_clash h, busRowApplies_of_match h]

theorem decodeVector_ioWrite (h : v &&& 0b11111#5 = 0b00101#5) : decodeVector v a d = .ioWrite a d := by
  simp (disch := decide) [decodeVector, busRowApplies_false_of_clash h, busRowApplies_of_match h]

theorem decodeVector_ioReadHold (h : v &&& 0b11110#5 = 0b10110#5) : decodeVector v a d = .ioReadHold := by
  simp (disch := decide) [decodeVector, busRowApplies_false_of_clash h, busRowApplies_of_match h]

/-- The row the decoder selects without a test of its own. -/
theorem decodeVector_ioWriteHold (h : v &&& 0b11111#5 = 0b10101#5) : decodeVector v a d = .ioWriteHold := by
  simp (disch := decide) [decodeVector, busRowApplies_false_of_clash h]

end decodeVector

end Sys2Proof

namespace Sys2Proof.Machine

theorem exec_idleNorequest (s : State) : exec .idleNorequest s = .next (s.withLatch none) := rfl

/-- R99 with nothing latched: there is no byte to drive again, and the tick is Idle (R98). -/
theorem exec_ioReadHold_of_no_latch {s : State} (h : s.ioLatch = none) : exec .ioReadHold s = .next (s.withLatch none) := by
  have hexec : exec .ioReadHold s = execIoReadHold s := rfl
  rw [hexec, execIoReadHold, h, idleService_eq]

end Sys2Proof.Machine

namespace Sys2Proof

/-- Settles O45: the 32 vectors are counted against the table, and the decoder's choice is read off row by row. -/
theorem busTableSelectsTheRow : Obligations.BusTableSelectsTheRow := by
  refine ⟨busRows_exactly_one_applies, fun v a d => ?_, fun s hlatch => ?_⟩
  · exact ⟨decodeVector_memoryRead a d, decodeVector_memoryWrite a d, decodeVector_idleMemNostrobe a d,
      decodeVector_idleNorequest a d, decodeVector_idleIoNostrobe a d, decodeVector_ioRead a d,
      decodeVector_ioWrite a d, decodeVector_ioReadHold a d, decodeVector_ioWriteHold a d⟩
  · rw [Machine.exec_ioReadHold_of_no_latch hlatch, Machine.exec_idleNorequest]

end Sys2Proof

/-! The classification of R93 against the table of R71: the row the decoder selects for each setting of the control lines. -/

namespace Sys2Proof

section decodeBus
variable (prev iorq rd wr : Bool) (a : Addr) (d : Byte)

theorem decodeBus_memoryRead : decodeBus prev ⟨true, iorq, true, wr, a, d⟩ = .memoryRead a :=
  decodeVector_memoryRead a d (by dsimp only [busVector]; revert prev iorq wr; decide)

theorem decodeBus_memoryWrite : decodeBus prev ⟨true, iorq, false, true, a, d⟩ = .memoryWrite a d :=
  decodeVector_memoryWrite a d (by dsimp only [busVector]; revert prev iorq; decide)

theorem decodeBus_idleMemNostrobe : decodeBus prev ⟨true, iorq, false, false, a, d⟩ = .idleMemNostrobe :=
  decodeVector_idleMemNostrobe a d (by dsimp only [busVector]; revert prev iorq; decide)

theorem decodeBus_idleNorequest : decodeBus prev ⟨false, false, rd, wr, a, d⟩ = .idleNorequest :=
  decodeVector_idleNorequest a d (by dsimp only [busVector]; revert prev rd wr; decide)

theorem decodeBus_idleIoNostrobe : decodeBus prev ⟨false, true, false, false, a, d⟩ = .idleIoNostrobe :=
  decodeVector_idleIoNostrobe a d (by dsimp only [busVector]; revert prev; decide)

theorem decodeBus_ioRead : decodeBus false ⟨false, true, true, wr, a, d⟩ = .ioRead a :=
  decodeVector_ioRead a d (by dsimp only [busVector]; revert wr; decide)

theorem decodeBus_ioWrite : decodeBus false ⟨false, true, false, true, a, d⟩ = .ioWrite a d :=
  decodeVector_ioWrite a d (by dsimp only [busVector]; decide)

theorem decodeBus_ioReadHold : decodeBus true ⟨false, true, true, wr, a, d⟩ = .ioReadHold :=
  decodeVector_ioReadHold a d (by dsimp only [busVector]; revert wr; decide)

theorem decodeBus_ioWriteHold : decodeBus true ⟨false, true, false, true, a, d⟩ = .ioWriteHold :=
  decodeVector_ioWriteHold a d (by dsimp only [busVector]; decide)

end decodeBus

namespace Machine

/-- The decoder's row is always a BUS row, and its class is the one R93's procedure gives. -/
theorem classOf_decodeBus (latch : Option Byte) (prev : Bool) (S : Sample) :
    classOf latch (decodeBus prev S) = some (classify S prev latch) := by
  obtain ⟨mreq, iorq, rd, wr, a, d⟩ := S
  match mreq, iorq, rd, wr, prev with
  | true, iorq, true, wr, prev => rw [decodeBus_memoryRead]; rfl
  | true, iorq, false, true, prev => rw [decodeBus_memoryWrite]; rfl
  | true, iorq, false, false, prev => rw [decodeBus_idleMemNostrobe]; rfl
  | false, false, rd, wr, prev => rw [decodeBus_idleNorequest]; rfl
  | false, true, false, false, prev => rw [decodeBus_idleIoNostrobe]; rfl
  | false, true, true, wr, false => rw [decodeBus_ioRead]; rfl
  | false, true, false, true, false => rw [decodeBus_ioWrite]; rfl
  | false, true, true, wr, true => rw [decodeBus_ioReadHold]; cases latch <;> rfl
  | false, true, false, true, true => rw [decodeBus_ioWriteHold]; rfl

/-! What a service may leave. `serviceFrame` says what no service writes; a service that answers no read keeps the data drive
besides. -/

/-- The frame of a service that puts no byte on the data bus (R95, R97, R98). -/
def silentFrame (s t : State) : Prop := serviceFrame s t ∧ t.dataDrive = s.dataDrive

theorem serviceFrame_refl (s : State) : serviceFrame s s := ⟨rfl, rfl, rfl, rfl, rfl, rfl, rfl, rfl, rfl, rfl, rfl⟩

@[simp] theorem silentFrame_refl (s : State) : silentFrame s s := ⟨serviceFrame_refl s, rfl⟩

theorem silentFrame.trans {s t u : State} (hst : silentFrame s t) (htu : silentFrame t u) : silentFrame s u := by
  simp_all [silentFrame, serviceFrame]

section updates
variable (s t : State)

@[simp] theorem silentFrame_withMem (m : Memory) : silentFrame s (t.withMem m) ↔ silentFrame s t := Iff.rfl
@[simp] theorem silentFrame_withCon (c : Console) : silentFrame s (t.withCon c) ↔ silentFrame s t := Iff.rfl
@[simp] theorem silentFrame_withDisk (d : DiskSession) : silentFrame s (t.withDisk d) ↔ silentFrame s t := Iff.rfl
@[simp] theorem silentFrame_withFiles (f : Files) : silentFrame s (t.withFiles f) ↔ silentFrame s t := Iff.rfl
@[simp] theorem silentFrame_withConIn (l : List Byte) : silentFrame s (t.withConIn l) ↔ silentFrame s t := Iff.rfl
@[simp] theorem silentFrame_withConOut (l : List Byte) : silentFrame s (t.withConOut l) ↔ silentFrame s t := Iff.rfl
@[simp] theorem silentFrame_withLatch (b : Option Byte) : silentFrame s (t.withLatch b) ↔ silentFrame s t := Iff.rfl

end updates

theorem silentFrame.of_withDisk {s t : State} {d : DiskSession} (h : silentFrame (s.withDisk d) t) : silentFrame s t :=
  h

/-- Driving a byte and latching it leaves the frame of the service as it was (R96). -/
theorem serviceFrame_ioReadDone {s t : State} (b : Byte) (h : silentFrame s t) : serviceFrame s (ioReadDone b t) := h.1

/-! The operations of the two devices put nothing on the bus themselves: only the end of an IoRead does (R96). -/

theorem openAttempt_silent (kind : OpenKind) (n : Name) (s : State) : silentFrame s (openAttempt kind n s).1 := by
  obtain ⟨-, -, -, ⟨-, h⟩ | ⟨-, h⟩ | ⟨-, h⟩⟩ | ⟨-, -, -, h⟩ | ⟨-, h⟩ | ⟨-, -, -, -, -, h⟩ :=
    openAttempt_cases kind n s <;> rw [h]
  case inr.inl =>
    by_cases he : fsExists s n <;> simp [he]
  all_goals simp

theorem dropOrphan_silent (s : State) : silentFrame s (dropOrphan s) := by
  obtain ⟨h, -⟩ | ⟨h, -⟩ := dropOrphan_cases s <;> simp [h]

theorem openClass_silent (kind : OpenKind) (s : State) : silentFrame s (openClass kind s) := by
  have hattempt := openAttempt_silent kind s.disk.fname (consumeName s)
  obtain ⟨-, h⟩ | ⟨-, t, m, p, ht, h⟩ | ⟨-, t, ht, h⟩ := openClass_cases kind s
  · simp [h]
  · rw [ht] at hattempt
    simpa [h] using hattempt.of_withDisk
  · rw [ht] at hattempt
    simpa [h] using hattempt.of_withDisk.trans (dropOrphan_silent t)

theorem moveTo_silent (p : Nat) (s : State) : silentFrame s (moveTo p s) := by
  obtain ⟨-, h⟩ | ⟨f, -, -, h⟩ | ⟨f, -, -, h⟩ := moveTo_cases p s <;> simp [h]

theorem closeSession_silent (s : State) : silentFrame s (closeSession s) := by
  simp [closeSession]

theorem listDirectory_silent (s : State) : silentFrame s (listDirectory s) := by
  obtain ⟨-, h⟩ | ⟨-, h⟩ := listDirectory_cases s <;> simp [h]

theorem blockRead_silent (s : State) : silentFrame s (blockRead s) := by
  obtain ⟨-, h⟩ | ⟨f, -, -, h⟩ | ⟨f, -, -, -, h⟩ := blockRead_cases s <;> simp [h, blockReadTransfer]

theorem blockWrite_silent (s : State) : silentFrame s (blockWrite s) := by
  obtain ⟨-, h⟩ | ⟨f, -, -, h⟩ | ⟨f, -, -, -, h⟩ := blockWrite_cases s <;> simp [h, blockWriteTransfer]

theorem fnameWrite_silent (v : Byte) (s : State) : silentFrame s (fnameWrite v s) := by
  obtain ⟨-, h⟩ | ⟨-, -, h⟩ | ⟨-, -, -, h⟩ | ⟨-, -, -, h⟩ := fnameWrite_cases v s <;> simp [h]

theorem dirDataRead_silent (k : Cursor) (s : State) : silentFrame s (dirDataRead k s).2 := by
  obtain ⟨b, l, -, h⟩ | ⟨e, l, -, -, h⟩ | ⟨-, -, h⟩ := dirDataRead_cases k s <;> simp [h]

theorem fileDataRead_silent (s : State) : silentFrame s (fileDataRead s).2 := by
  obtain ⟨f, -, -, -, h⟩ | ⟨f, -, -, -, h⟩ | ⟨-, h⟩ := fileDataRead_cases s <;> simp [h]

theorem diskDataRead_silent (s : State) : silentFrame s (diskDataRead s).2 := by
  obtain ⟨k, -, h⟩ | ⟨-, h⟩ := diskDataRead_cases s
  · rw [h]; exact dirDataRead_silent k s
  · rw [h]; exact fileDataRead_silent s

theorem diskDataWrite_silent (v : Byte) (s : State) : silentFrame s (diskDataWrite v s) := by
  obtain ⟨-, h⟩ | ⟨f, -, -, h⟩ | ⟨f, -, -, -, h⟩ := diskDataWrite_cases v s <;> simp [h]

theorem conDataReceive_silent (s : State) : silentFrame s (conDataReceive s) := by
  obtain ⟨-, h⟩ | ⟨b, l, -, -, h⟩ | ⟨-, -, h⟩ := conDataReceive_cases s <;> simp [h]

theorem runCommand_silent (code : Byte) {f : State → State} (hf : ∀ s, silentFrame s (f s)) (s : State) :
    silentFrame s (runCommand code f s) :=
  (hf (setLastCmd s code)).of_withDisk

/-! Each row of the tables goes on and keeps its frame. -/

/-- Every command row, the reserved one included (R140 to R149, R152). -/
theorem exec_cmd_silent (k : Cmd) (v : Byte) (s : State) : ∃ t, exec (k.toInstr v) s = .next t ∧ silentFrame s t := by
  cases k with
  | openRead => exact ⟨_, rfl, runCommand_silent _ (openClass_silent .openRead) s⟩
  | create => exact ⟨_, rfl, runCommand_silent _ (openClass_silent .create) s⟩
  | openAppend => exact ⟨_, rfl, runCommand_silent _ (openClass_silent .openAppend) s⟩
  | seekToStart => exact ⟨_, rfl, runCommand_silent _ (moveTo_silent 0) s⟩
  | close => exact ⟨_, rfl, runCommand_silent _ closeSession_silent s⟩
  | listDirectory => exact ⟨_, rfl, runCommand_silent _ listDirectory_silent s⟩
  | openReadwrite => exact ⟨_, rfl, runCommand_silent _ (openClass_silent .openReadwrite) s⟩
  | seek => exact ⟨_, rfl, runCommand_silent _ (moveTo_silent _) s⟩
  | reserved => exact ⟨_, rfl, runCommand_silent v (f := raiseError .proto) (by simp) s⟩

/-- Every block row, the reserved one included (R150, R151, R153). -/
theorem exec_blk_silent (k : Blk) (v : Byte) (s : State) : ∃ t, exec (k.toInstr v) s = .next t ∧ silentFrame s t := by
  cases k with
  | read => exact ⟨_, rfl, blockRead_silent s⟩
  | write => exact ⟨_, rfl, blockWrite_silent s⟩
  | reserved => exact ⟨_, rfl, by simp⟩

/-- R131: a command write is the command its byte selects. -/
theorem exec_outDiskCmd (v : Byte) (s : State) :
    exec (.outDiskCmd v) s = exec ((decodeCmd s.cfg v).toInstr v) s := by
  have hexec : exec (.outDiskCmd v) s = execOutDiskCmd v s := rfl
  rw [hexec, execOutDiskCmd]
  cases decodeCmd s.cfg v <;> rfl

/-- R132: a block write is the operation its byte selects. -/
theorem exec_outDiskBlock (v : Byte) (s : State) : exec (.outDiskBlock v) s = exec ((decodeBlk v).toInstr v) s := by
  have hexec : exec (.outDiskBlock v) s = execOutDiskBlock v s := rfl
  rw [hexec, execOutDiskBlock]
  cases decodeBlk v <;> rfl

/-- R96, R72: an IoRead is the PORT row its port selects. -/
theorem exec_ioRead (a : Addr) (s : State) :
    exec (.ioRead a) s = exec ((decodePortIn s.cfg (portOf a)).toInstr (portOf a)) s := by
  have hexec : exec (.ioRead a) s = execIoRead a s := rfl
  rw [hexec, execIoRead]
  cases decodePortIn s.cfg (portOf a) <;> rfl

/-- R97, R72: an IoWrite is the PORT row its port selects. -/
theorem exec_ioWrite (a : Addr) (v : Byte) (s : State) :
    exec (.ioWrite a v) s = exec ((decodePortOut s.cfg (portOf a)).toInstr (portOf a) v) s := by
  have hexec : exec (.ioWrite a v) s = execIoWrite a v s := rfl
  rw [hexec, execIoWrite]
  cases decodePortOut s.cfg (portOf a) <;> rfl

/-- Every write role of the port map (R73, R102). -/
theorem exec_portOut_silent (r : PortOut) (p : Port) (v : Byte) (s : State) :
    ∃ t, exec (r.toInstr p v) s = .next t ∧ silentFrame s t := by
  cases r with
  | conCtrl => exact ⟨_, rfl, by simp⟩
  | conData => exact ⟨_, rfl, by simp⟩
  | diskCmd => rw [PortOut.toInstr, exec_outDiskCmd]; exact exec_cmd_silent _ v s
  | diskData => exact ⟨_, rfl, diskDataWrite_silent v s⟩
  | diskFname => exact ⟨_, rfl, fnameWrite_silent v s⟩
  | seekLo => exact ⟨_, rfl, by simp⟩
  | seekMid => exact ⟨_, rfl, by simp⟩
  | seekHi => exact ⟨_, rfl, by simp⟩
  | dmaLo => exact ⟨_, rfl, by simp⟩
  | dmaHi => exact ⟨_, rfl, by simp⟩
  | diskBlock => rw [PortOut.toInstr, exec_outDiskBlock]; exact exec_blk_silent _ v s
  | unmapped => exact ⟨_, rfl, by simp⟩

/-- Every read role of the port map (R73, R102). -/
theorem exec_portIn_frame (r : PortIn) (p : Port) (s : State) :
    ∃ t, exec (r.toInstr p) s = .next t ∧ serviceFrame s t := by
  cases r with
  | conStatus => exact ⟨_, rfl, serviceFrame_ioReadDone _ (silentFrame_refl s)⟩
  | conData => exact ⟨_, rfl, serviceFrame_ioReadDone _ (conDataReceive_silent s)⟩
  | diskStatus => exact ⟨_, rfl, serviceFrame_ioReadDone _ (silentFrame_refl s)⟩
  | diskData => exact ⟨_, rfl, serviceFrame_ioReadDone _ (diskDataRead_silent s)⟩
  | diskBlock => exact ⟨_, rfl, serviceFrame_ioReadDone _ (silentFrame_refl s)⟩
  | unmapped => exact ⟨_, rfl, serviceFrame_ioReadDone _ (silentFrame_refl s)⟩

/-- R99: a held read drives the latched byte again, or is Idle. -/
theorem exec_ioReadHold_of_latch {s : State} {b : Byte} (h : s.ioLatch = some b) :
    exec .ioReadHold s = .next (if s.cfg.ioReadHoldDrive then s.withDrive (some b) else s.withLatch none) := by
  have hexec : exec .ioReadHold s = execIoReadHold s := rfl
  rw [hexec, execIoReadHold, h]
  cases hd : s.cfg.ioReadHoldDrive <;> simp

/-- The classes whose service may drive the data bus (R100). -/
abbrev drivingClasses : List BusClass := [.memoryRead, .ioRead, .ioReadHold]

/-- The frame of the service of a bus cycle: the data drive is written in a driving class only. -/
def cycleFrame (k : BusClass) (s t : State) : Prop :=
  serviceFrame s t ∧ (t.dataDrive = s.dataDrive ∨ k ∈ drivingClasses)

theorem silentFrame.cycleFrame {k : BusClass} {s t : State} (h : silentFrame s t) : cycleFrame k s t :=
  ⟨h.1, .inl h.2⟩

theorem serviceFrame.cycleFrame {k : BusClass} {s t : State} (h : serviceFrame s t) (hk : k ∈ drivingClasses) :
    cycleFrame k s t :=
  ⟨h, .inr hk⟩

/-- R101, R100: the service of a BUS row goes on, and keeps the frame of the row's class. -/
theorem exec_busRow {i : Instr} {s : State} {k : BusClass} (hclass : classOf s.ioLatch i = some k) :
    ∃ t, exec i s = .next t ∧ cycleFrame k s t := by
  cases i with
  | memoryRead a => cases hclass; exact ⟨_, rfl, serviceFrame.cycleFrame (serviceFrame_refl s) (by decide)⟩
  | memoryWrite a v => exact ⟨_, rfl, silentFrame.cycleFrame (by simp)⟩
  | idleMemNostrobe => exact ⟨_, rfl, silentFrame.cycleFrame (by simp)⟩
  | idleNorequest => exact ⟨_, rfl, silentFrame.cycleFrame (by simp)⟩
  | idleIoNostrobe => exact ⟨_, rfl, silentFrame.cycleFrame (by simp)⟩
  | ioRead a =>
    cases hclass
    obtain ⟨t, hnext, hframe⟩ := exec_portIn_frame (decodePortIn s.cfg (portOf a)) (portOf a) s
    exact ⟨t, (exec_ioRead a s).trans hnext, hframe.cycleFrame (by decide)⟩
  | ioWrite a v =>
    obtain ⟨t, hnext, hframe⟩ := exec_portOut_silent (decodePortOut s.cfg (portOf a)) (portOf a) v s
    exact ⟨t, (exec_ioWrite a v s).trans hnext, hframe.cycleFrame⟩
  | ioReadHold =>
    rcases hlatch : s.ioLatch with _ | b
    · exact ⟨_, exec_ioReadHold_of_no_latch hlatch, silentFrame.cycleFrame (by simp)⟩
    · rw [classOf, hlatch] at hclass
      cases hclass
      refine ⟨_, exec_ioReadHold_of_latch hlatch, serviceFrame.cycleFrame ?_ (by decide)⟩
      split <;> exact serviceFrame_refl s
  | ioWriteHold => exact ⟨_, rfl, silentFrame.cycleFrame (by simp)⟩
  | _ => cases hclass

/-! The step around the service. -/

theorem step_of_systemReset {s : State} (h : (nextInput s).systemReset = true) :
    step s = .next (fullReset (takeInput s)) := by
  simp [step, h]

theorem step_of_run {s : State} (hrun : s.phase = .run) (h : (nextInput s).systemReset = false) :
    step s = finishTick (nextInput s).sample
      (exec (decodeBus s.prevIorq (nextInput s).sample) (beginTick (takeInput s))) := by
  simp only [step, h, hrun]
  rfl

/-- R90: a tick is its service between steps (a), (b) and step (f); the service keeps the frame of its class. -/
theorem step_tick {s : State} (hrun : s.phase = .run) (h : (nextInput s).systemReset = false) :
    ∃ t, step s = .next (endTick (nextInput s).sample t)
      ∧ cycleFrame (classify (nextInput s).sample s.prevIorq s.ioLatch) (beginTick (takeInput s)) t := by
  obtain ⟨t, hnext, hframe⟩ :=
    exec_busRow (s := beginTick (takeInput s)) (classOf_decodeBus s.ioLatch s.prevIorq (nextInput s).sample)
  exact ⟨t, by rw [step_of_run hrun h, hnext, finishTick], hframe⟩

end Machine

/-- Settles O47: a power cycle is a next state (R184), and a tick keeps the phase, since no service writes it. -/
theorem runningBridgeNeverStops : Obligations.RunningBridgeNeverStops := by
  intro s hrun
  cases hreset : (Machine.nextInput s).systemReset with
  | true => exact ⟨_, Machine.step_of_systemReset hreset, nofun⟩
  | false =>
    obtain ⟨t, hstep, ⟨hphase, -⟩, -⟩ := Machine.step_tick hrun hreset
    exact ⟨_, hstep, fun _ => hphase.trans hrun⟩

/-- Settles O48: step (f) releases the bus, and what was driven until then is nothing unless the class is a driving one. -/
theorem tickEndsWithTheBusReleased : Obligations.TickEndsWithTheBusReleased := by
  intro s hrun hreset hidle
  obtain ⟨t, hstep, -, hdrive⟩ := Machine.step_tick hrun hreset
  exact ⟨_, hstep, rfl, rfl, rfl, fun hdriven => hdrive.resolve_left fun hkept => hdriven (hkept.trans hidle)⟩

/-! Unmapped ports (R102): the dispatchers of R96 and R97 fall through exactly on the ports with no role. -/

theorem decodePortIn_eq_unmapped_iff (c : Params) (p : Port) : decodePortIn c p = .unmapped ↔ p ∉ c.readPorts := by
  simp [decodePortIn, Params.readPorts, ite_eq_iff]

theorem decodePortOut_eq_unmapped_iff (c : Params) (p : Port) : decodePortOut c p = .unmapped ↔ p ∉ c.writePorts := by
  simp [decodePortOut, Params.writePorts, ite_eq_iff]

namespace Machine

theorem exec_inUnmapped (p : Port) (s : State) :
    exec (.inUnmapped p) s = .next ((s.withDrive (some s.cfg.unmappedRead)).withLatch (some s.cfg.unmappedRead)) := rfl

theorem exec_outUnmapped (p : Port) (v : Byte) (s : State) : exec (.outUnmapped p v) s = .next (s.withLatch none) := rfl

end Machine

/-- Settles O7: an unmapped read writes the data drive and the latch alone, an unmapped write the latch alone; the reference
port map is evaluated. -/
theorem unmappedPortAccessChangesNothing : Obligations.UnmappedPortAccessChangesNothing := by
  refine ⟨fun c p => ⟨decodePortIn_eq_unmapped_iff c p, decodePortOut_eq_unmapped_iff c p⟩, fun p s => ?_, fun p v s => ?_,
    rfl, by decide, by decide, by decide, by decide⟩
  · exact ⟨_, Machine.exec_inUnmapped p s, ⟨rfl, rfl⟩, Machine.serviceFrame_refl s, fun _ => rfl, ⟨rfl, rfl, rfl⟩, rfl, rfl⟩
  · exact ⟨_, Machine.exec_outUnmapped p v s, ⟨rfl, rfl⟩, Machine.serviceFrame_refl s, fun _ => rfl, ⟨rfl, rfl, rfl⟩, rfl, rfl⟩

end Sys2Proof

/-! The port map (R73, D4): under parameters the spec allows, the number of a role selects that role. -/

namespace Sys2Proof

theorem Params.valid_readPorts_nodup {c : Params} (h : c.valid = true) : c.readPorts.Nodup := by
  simp_all [Params.valid]

theorem Params.valid_writePorts_nodup {c : Params} (h : c.valid = true) : c.writePorts.Nodup := by
  simp_all [Params.valid]

/-- The number of a read role (R73). -/
def PortIn.number? (c : Params) : PortIn → Option Port
  | .conStatus  => some c.portConStatus
  | .conData    => some c.portConData
  | .diskStatus => some c.portDiskStatus
  | .diskData   => some c.portDiskData
  | .diskBlock  => some c.portDiskBlock
  | .unmapped   => none

/-- The number of a write role (R73). -/
def PortOut.number? (c : Params) : PortOut → Option Port
  | .conCtrl   => some c.portConCtrl
  | .conData   => some c.portConData
  | .diskCmd   => some c.portDiskCmd
  | .diskData  => some c.portDiskData
  | .diskFname => some c.portDiskFname
  | .seekLo    => some c.portSeekLo
  | .seekMid   => some c.portSeekMid
  | .seekHi    => some c.portSeekHi
  | .dmaLo     => some c.portDmaLo
  | .dmaHi     => some c.portDmaHi
  | .diskBlock => some c.portDiskBlock
  | .unmapped  => none

/-- Distinct numbers: every test the dispatcher of R96 makes before the role's own fails. -/
theorem decodePortIn_number {c : Params} (hv : c.valid = true) {r : PortIn} {p : Port} (hp : r.number? c = some p) :
    decodePortIn c p = r := by
  have hdistinct := Params.valid_readPorts_nodup hv
  simp only [Params.readPorts, List.nodup_cons, List.mem_cons, not_or] at hdistinct
  cases r <;> cases hp <;> grind [decodePortIn]

/-- Distinct numbers: every test the dispatcher of R97 makes before the role's own fails. -/
theorem decodePortOut_number {c : Params} (hv : c.valid = true) {r : PortOut} {p : Port} (hp : r.number? c = some p) :
    decodePortOut c p = r := by
  have hdistinct := Params.valid_writePorts_nodup hv
  simp only [Params.writePorts, List.nodup_cons, List.mem_cons, not_or] at hdistinct
  cases r <;> cases hp <;> grind [decodePortOut]

theorem decodePort_in_number {c : Params} (hv : c.valid = true) (r : PortIn) {p : Port} (hp : r.number? c = some p)
    (v : Byte) : decodePort c false p v = r.toInstr p :=
  congrArg (PortIn.toInstr p) (decodePortIn_number hv hp)

theorem decodePort_out_number {c : Params} (hv : c.valid = true) (r : PortOut) {p : Port} (hp : r.number? c = some p)
    (v : Byte) : decodePort c true p v = r.toInstr p v :=
  congrArg (PortOut.toInstr p v) (decodePortOut_number hv hp)

/-! The registers assembled from several bytes (R80, R81). -/

theorem toNat_append_byte {n : Nat} (hi : BitVec n) (lo : Byte) : (hi ++ lo).toNat = lo.toNat + 256 * hi.toNat := by
  rw [BitVec.toNat_append, ← Nat.shiftLeft_add_eq_or_of_lt lo.isLt, Nat.shiftLeft_eq]
  omega

namespace Machine

theorem seekPosition_toNat (d : DiskSession) :
    (seekPosition d).toNat = d.seekLo.toNat + 256 * d.seekMid.toNat + 65536 * d.seekHi.toNat := by
  rw [seekPosition, toNat_append_byte, toNat_append_byte]
  omega

theorem dmaAddress_toNat (d : DiskSession) : (dmaAddress d).toNat = d.dmaLo.toNat + 256 * d.dmaHi.toNat :=
  toNat_append_byte d.dmaHi d.dmaLo

/-! The operand ports (R122 to R126): the service replaces the DiskSession by one with one byte of a register changed, and ends
the IoWrite. -/

/-- An IoWrite that only writes the DiskSession. -/
theorem diskWriteFrame_withDisk (s : State) (d : DiskSession) : diskWriteFrame s (ioWriteDone (s.withDisk d)) :=
  ⟨serviceFrame_refl s, ⟨rfl, rfl⟩, fun _ => rfl, rfl, rfl, rfl⟩

theorem exec_outSeekLo (v : Byte) (s : State) :
    exec (.outSeekLo v) s = .next (ioWriteDone (s.withDisk { s.disk with seekLo := v })) := rfl

theorem exec_outSeekMid (v : Byte) (s : State) :
    exec (.outSeekMid v) s = .next (ioWriteDone (s.withDisk { s.disk with seekMid := v })) := rfl

theorem exec_outSeekHi (v : Byte) (s : State) :
    exec (.outSeekHi v) s = .next (ioWriteDone (s.withDisk { s.disk with seekHi := v })) := rfl

theorem exec_outDmaLo (v : Byte) (s : State) :
    exec (.outDmaLo v) s = .next (ioWriteDone (s.withDisk { s.disk with dmaLo := v })) := rfl

theorem exec_outDmaHi (v : Byte) (s : State) :
    exec (.outDmaHi v) s = .next (ioWriteDone (s.withDisk { s.disk with dmaHi := v })) := rfl

end Machine

open Machine in
/-- Settles O14: a write replaces one byte of the concatenation, and the number of a seek port selects it. -/
theorem seekPortsReplaceOneByte : Obligations.SeekPortsReplaceOneByte := by
  refine fun v s => ⟨?_, ?_, ?_, fun hv => ⟨?_, ?_, ?_⟩⟩
  · exact ⟨_, exec_outSeekLo v s, rfl, seekPosition_toNat _, rfl, diskWriteFrame_withDisk s _⟩
  · exact ⟨_, exec_outSeekMid v s, rfl, seekPosition_toNat _, rfl, diskWriteFrame_withDisk s _⟩
  · exact ⟨_, exec_outSeekHi v s, rfl, seekPosition_toNat _, rfl, diskWriteFrame_withDisk s _⟩
  · exact decodePort_out_number hv .seekLo rfl v
  · exact decodePort_out_number hv .seekMid rfl v
  · exact decodePort_out_number hv .seekHi rfl v

open Machine in
/-- Settles O15: as for the seek ports, with a register of two bytes. -/
theorem dmaPortsReplaceOneByte : Obligations.DmaPortsReplaceOneByte := by
  refine fun v s => ⟨?_, ?_, fun hv => ⟨?_, ?_⟩⟩
  · exact ⟨_, exec_outDmaLo v s, rfl, dmaAddress_toNat _, rfl, diskWriteFrame_withDisk s _⟩
  · exact ⟨_, exec_outDmaHi v s, rfl, dmaAddress_toNat _, rfl, diskWriteFrame_withDisk s _⟩
  · exact decodePort_out_number hv .dmaLo rfl v
  · exact decodePort_out_number hv .dmaHi rfl v

/-! The stages of a tick's decoding (R6): an instruction that a dispatcher hands on runs as what it resolves to, and a leaf is
handed on no further. -/

/-- The four instructions a dispatcher hands on (R96, R97, R131, R132). -/
def Instr.dispatches : Instr → Bool
  | .ioRead _ | .ioWrite _ _ | .outDiskCmd _ | .outDiskBlock _ => true
  | _ => false

theorem resolve_of_not_dispatches (c : Params) {i : Instr} (h : i.dispatches = false) : resolve c i = i := by
  cases i with
  | ioRead | ioWrite | outDiskCmd | outDiskBlock => cases h
  | _ => rfl

theorem resolve_keeps_not_dispatches (c : Params) {i : Instr} (h : i.dispatches = false) :
    (resolve c i).dispatches = false :=
  (congrArg Instr.dispatches (resolve_of_not_dispatches c h)).trans h

theorem Cmd.toInstr_not_dispatches (k : Cmd) (v : Byte) : (k.toInstr v).dispatches = false := by cases k <;> rfl

theorem Blk.toInstr_not_dispatches (k : Blk) (v : Byte) : (k.toInstr v).dispatches = false := by cases k <;> rfl

theorem PortIn.toInstr_not_dispatches (r : PortIn) (p : Port) : (r.toInstr p).dispatches = false := by cases r <;> rfl

/-- What a write role selects is resolved in one stage more. -/
theorem resolve_portOut_not_dispatches (c : Params) (r : PortOut) (p : Port) (v : Byte) :
    (resolve c (r.toInstr p v)).dispatches = false := by
  cases r with
  | diskCmd => exact (decodeCmd c v).toInstr_not_dispatches v
  | diskBlock => exact (decodeBlk v).toInstr_not_dispatches v
  | _ => rfl

namespace Machine

theorem leaf_not_dispatches (c : Params) (i : Instr) : (leaf c i).dispatches = false := by
  cases i with
  | ioRead a => exact resolve_keeps_not_dispatches c ((decodePortIn c (portOf a)).toInstr_not_dispatches (portOf a))
  | ioWrite a v => exact resolve_portOut_not_dispatches c (decodePortOut c (portOf a)) (portOf a) v
  | outDiskCmd v => exact resolve_keeps_not_dispatches c ((decodeCmd c v).toInstr_not_dispatches v)
  | outDiskBlock v => exact resolve_keeps_not_dispatches c ((decodeBlk v).toInstr_not_dispatches v)
  | _ => rfl

theorem exec_resolve (i : Instr) (s : State) : exec (resolve s.cfg i) s = exec i s := by
  cases i with
  | ioRead a => exact (exec_ioRead a s).symm
  | ioWrite a v => exact (exec_ioWrite a v s).symm
  | outDiskCmd v => exact (exec_outDiskCmd v s).symm
  | outDiskBlock v => exact (exec_outDiskBlock v s).symm
  | _ => rfl

/-- R6: an instruction does what the spec decodes it to. -/
theorem exec_leaf (i : Instr) (s : State) : exec (leaf s.cfg i) s = exec i s :=
  (exec_resolve _ s).trans (exec_resolve i s)

/-! The last block result (R36, R130): none of the shared operations but the block ones writes it. -/

theorem openAttempt_disk (kind : OpenKind) (n : Name) (s : State) : (openAttempt kind n s).1.disk = s.disk := by
  obtain ⟨-, -, -, ⟨-, h⟩ | ⟨-, h⟩ | ⟨-, h⟩⟩ | ⟨-, -, -, h⟩ | ⟨-, h⟩ | ⟨-, -, -, -, -, h⟩ :=
    openAttempt_cases kind n s <;> rw [h]
  case inr.inl =>
    by_cases he : fsExists s n <;> simp [he]
  all_goals simp

theorem dropOrphan_blkResult (s : State) : (dropOrphan s).disk.blkResult = s.disk.blkResult := by
  obtain ⟨h, -⟩ | ⟨h, -⟩ := dropOrphan_cases s <;> simp [h]

theorem openClass_blkResult (kind : OpenKind) (s : State) :
    (openClass kind s).disk.blkResult = s.disk.blkResult := by
  have hattempt := openAttempt_disk kind s.disk.fname (consumeName s)
  obtain ⟨-, h⟩ | ⟨-, t, m, p, ht, h⟩ | ⟨-, t, ht, h⟩ := openClass_cases kind s
  case inl => simp [h]
  all_goals
    have hdisk : t.disk = (consumeName s).disk := by rwa [ht] at hattempt
    simp [h, dropOrphan_blkResult, hdisk]

theorem moveTo_blkResult (p : Nat) (s : State) : (moveTo p s).disk.blkResult = s.disk.blkResult := by
  obtain ⟨-, h⟩ | ⟨f, -, -, h⟩ | ⟨f, -, -, h⟩ := moveTo_cases p s <;> simp [h]

theorem listDirectory_blkResult (s : State) : (listDirectory s).disk.blkResult = s.disk.blkResult := by
  obtain ⟨-, h⟩ | ⟨-, h⟩ := listDirectory_cases s <;> simp [h]

theorem fnameWrite_blkResult (v : Byte) (s : State) : (fnameWrite v s).disk.blkResult = s.disk.blkResult := by
  obtain ⟨-, h⟩ | ⟨-, -, h⟩ | ⟨-, -, -, h⟩ | ⟨-, -, -, h⟩ := fnameWrite_cases v s <;> simp [h]

theorem diskDataRead_blkResult (s : State) : (diskDataRead s).2.disk.blkResult = s.disk.blkResult := by
  obtain ⟨k, -, hread⟩ | ⟨-, hread⟩ := diskDataRead_cases s <;> rw [hread]
  · obtain ⟨b, l, -, h⟩ | ⟨e, l, -, -, h⟩ | ⟨-, -, h⟩ := dirDataRead_cases k s <;> simp [h]
  · obtain ⟨f, -, -, -, h⟩ | ⟨f, -, -, -, h⟩ | ⟨-, h⟩ := fileDataRead_cases s <;> simp [h]

theorem diskDataWrite_blkResult (v : Byte) (s : State) : (diskDataWrite v s).disk.blkResult = s.disk.blkResult := by
  obtain ⟨-, h⟩ | ⟨f, -, -, h⟩ | ⟨f, -, -, -, h⟩ := diskDataWrite_cases v s <;> simp [h]

theorem conDataReceive_disk (s : State) : (conDataReceive s).disk = s.disk := by
  obtain ⟨-, h⟩ | ⟨b, l, -, -, h⟩ | ⟨-, -, h⟩ := conDataReceive_cases s <;> simp [h]

/-- The rows that write the block result (R132). -/
def writesBlkResult (i : Instr) : Prop := i = .blockRead ∨ i = .blockWrite ∨ ∃ v, i = .blkReserved v

/-- R36, R130: of the instructions a tick can be decoded to, only the block operations and a reserved block byte write the last
block result. -/
theorem exec_keeps_blkResult {i : Instr} {s t : State} (hi : i.dispatches = false) (hblk : ¬ writesBlkResult i)
    (h : exec i s = .next t) : t.disk.blkResult = s.disk.blkResult := by
  cases i with
  | ioRead | ioWrite | outDiskCmd | outDiskBlock => cases hi
  | blockRead => exact absurd (.inl rfl) hblk
  | blockWrite => exact absurd (.inr (.inl rfl)) hblk
  | blkReserved v => exact absurd (.inr (.inr ⟨v, rfl⟩)) hblk
  | openRead => cases h; exact openClass_blkResult .openRead _
  | create => cases h; exact openClass_blkResult .create _
  | openAppend => cases h; exact openClass_blkResult .openAppend _
  | openReadwrite => cases h; exact openClass_blkResult .openReadwrite _
  | seekToStart => cases h; exact moveTo_blkResult _ _
  | seek => cases h; exact moveTo_blkResult _ _
  | listDirectory => cases h; exact listDirectory_blkResult _
  | outDiskFname v => cases h; exact fnameWrite_blkResult v s
  | inDiskData => cases h; exact diskDataRead_blkResult s
  | outDiskData v => cases h; exact diskDataWrite_blkResult v s
  | inConData => cases h; exact congrArg DiskSession.blkResult (conDataReceive_disk s)
  | ioReadHold =>
    rcases hlatch : s.ioLatch with _ | b
    · rw [exec_ioReadHold_of_no_latch hlatch] at h; cases h; rfl
    · rw [exec_ioReadHold_of_latch hlatch] at h; cases h; split <;> rfl
  | _ => cases h; rfl

theorem exec_inDiskBlock (s : State) : exec .inDiskBlock s = .next (ioReadDone s.disk.blkResult s) := rfl

end Machine

open Machine in
/-- Settles O19: what an instruction does to the result is what its leaf does, and no leaf but the block rows writes it. -/
theorem blockResultReadShowsTheResult : Obligations.BlockResultReadShowsTheResult := by
  refine ⟨fun s => ?_, fun c hv => decodePort_in_number hv .diskBlock rfl 0x00#8, fun i s t hnext hchanged => ?_, rfl⟩
  · exact ⟨_, exec_inDiskBlock s, ⟨rfl, rfl⟩, serviceFrame_refl s, fun _ => rfl, ⟨rfl, rfl, rfl⟩, rfl, rfl⟩
  · by_contra hblk
    have hleaf : exec (leaf s.cfg i) s = .next t := (exec_leaf i s).trans hnext
    exact hchanged (exec_keeps_blkResult (leaf_not_dispatches s.cfg i) hblk hleaf)

end Sys2Proof

/-! The command and block bytes (R74, R75): under parameters the spec allows, the code of a command selects that command, and the
bytes that select none are those of no code. -/

namespace Sys2Proof

theorem Params.valid_cmdCodes_nodup {c : Params} (h : c.valid = true) : c.cmdCodes.Nodup := by
  simp_all [Params.valid]

/-- The code of a command (R74). -/
def Cmd.code? (c : Params) : Cmd → Option Byte
  | .openRead      => some c.cmdOpenRead
  | .create        => some c.cmdCreate
  | .openAppend    => some c.cmdOpenAppend
  | .seekToStart   => some c.cmdSeekToStart
  | .close         => some c.cmdClose
  | .listDirectory => some c.cmdListDirectory
  | .openReadwrite => some c.cmdOpenReadwrite
  | .seek          => some c.cmdSeek
  | .reserved      => none

/-- Distinct codes (D5): every test the dispatcher of R131 makes before the command's own fails. -/
theorem decodeCmd_code {c : Params} (hv : c.valid = true) {k : Cmd} {v : Byte} (hk : k.code? c = some v) :
    decodeCmd c v = k := by
  have hdistinct := Params.valid_cmdCodes_nodup hv
  simp only [Params.cmdCodes, List.nodup_cons, List.mem_cons, not_or] at hdistinct
  cases k <;> cases hk <;> grind [decodeCmd]

theorem decodeCmd_eq_reserved_iff (c : Params) (v : Byte) : decodeCmd c v = .reserved ↔ v ∉ c.cmdCodes := by
  simp [decodeCmd, Params.cmdCodes, ite_eq_iff]

/-- The reference codes are the bytes 0x01 to 0x08 (R8). -/
theorem mem_reference_cmdCodes_iff (v : Byte) : v ∈ Params.reference.cmdCodes ↔ 1 ≤ v.toNat ∧ v.toNat ≤ 8 := by
  simp only [Params.cmdCodes, Params.reference, List.mem_cons, List.not_mem_nil, or_false]
  bv_omega

theorem decodeBlk_eq_reserved_iff (v : Byte) : decodeBlk v = .reserved ↔ v ≠ Config.blkRead ∧ v ≠ Config.blkWrite := by
  simp [decodeBlk, ite_eq_iff]

namespace Machine

/-! Services that only write the DiskSession: what R145, R146, R149, R152 and R153 say of the rest of the state, once. -/

/-- An instruction of the disk controller that replaces the DiskSession by `d` and ends its IoWrite. -/
theorem diskWrite_of_exec {i : Instr} {s : State} {d : DiskSession} (h : exec i s = .next (ioWriteDone (s.withDisk d))) :
    ∃ t, exec i s = .next t ∧ t.disk = d ∧ t.files = s.files ∧ diskWriteFrame s t :=
  ⟨_, h, rfl, rfl, diskWriteFrame_withDisk s d⟩

/-! SEEK_TO_START and SEEK are one operation, a move of the position, with `last_cmd` written first (R131, R145, R149). -/

theorem moveTo_of_handle {s : State} {h : Handle} (hfile : s.disk.file = some h) (hok : s.draws.fsFault = false) (p : Nat) :
    moveTo p s = s.withDisk { s.disk with file := some { h with pos := p }, error := false } := by
  obtain ⟨hnone, -⟩ | ⟨f, -, hfault, -⟩ | ⟨f, hsome, -, hmove⟩ := moveTo_cases p s
  · cases hfile.symm.trans hnone
  · cases hok.symm.trans hfault
  · cases hfile.symm.trans hsome
    exact hmove

theorem moveTo_of_error {s : State} (herr : s.disk.file = none ∨ s.draws.fsFault = true) (p : Nat) :
    moveTo p s = s.withDisk { s.disk with error := true } := by
  obtain ⟨-, hmove⟩ | ⟨f, -, -, hmove⟩ | ⟨f, hsome, hok, -⟩ := moveTo_cases p s
  · exact hmove
  · exact hmove
  · simp [hsome, hok] at herr

theorem runCommand_moveTo_of_handle {s : State} {h : Handle} (hfile : s.disk.file = some h)
    (hok : s.draws.fsFault = false) (code : Byte) (p : Nat) :
    runCommand code (moveTo p) s =
      ioWriteDone (s.withDisk { s.disk with lastCmd := code, file := some { h with pos := p }, error := false }) :=
  congrArg ioWriteDone (moveTo_of_handle (s := setLastCmd s code) hfile hok p)

theorem runCommand_moveTo_of_error {s : State} (herr : s.disk.file = none ∨ s.draws.fsFault = true) (code : Byte) (p : Nat) :
    runCommand code (moveTo p) s = ioWriteDone (s.withDisk { s.disk with lastCmd := code, error := true }) :=
  congrArg ioWriteDone (moveTo_of_error (s := setLastCmd s code) herr p)

/-! Each row's meaning, as the operations above. -/

theorem exec_seekToStart (s : State) : exec .seekToStart s = .next (runCommand s.cfg.cmdSeekToStart (moveTo 0) s) := rfl

theorem exec_seek (s : State) :
    exec .seek s = .next (runCommand s.cfg.cmdSeek
      (moveTo (s.disk.seekLo.toNat + 256 * s.disk.seekMid.toNat + 65536 * s.disk.seekHi.toNat)) s) := by
  rw [← seekPosition_toNat]
  rfl

theorem exec_close (s : State) :
    exec .close s = .next (ioWriteDone
      (s.withDisk { s.disk with lastCmd := s.cfg.cmdClose, file := none, dir := none, error := false })) := rfl

theorem exec_cmdReserved (v : Byte) (s : State) :
    exec (.cmdReserved v) s = .next (ioWriteDone (s.withDisk { s.disk with lastCmd := v, error := true })) := rfl

theorem exec_blkReserved (v : Byte) (s : State) :
    exec (.blkReserved v) s =
      .next (ioWriteDone (s.withDisk { s.disk with blkResult := s.cfg.blockFail, error := true })) := rfl

/-- With neither a cursor nor a handle there is nothing to deliver (R37). -/
theorem dataAvailable_of_idle {s : State} (hdir : s.disk.dir = none) (hfile : s.disk.file = none) :
    dataAvailable s = false := by
  simp [dataAvailable, hdir, hfile]

end Machine

open Machine in
/-- Settles O28: the move of the position to the register's value, which is read before the move and not written. -/
theorem seekMovesToTheRegister : Obligations.SeekMovesToTheRegister := by
  refine fun s => ⟨fun h hfile hok => diskWrite_of_exec ?_, fun herr => diskWrite_of_exec ?_,
    fun hv => decodeCmd_code (k := .seek) hv rfl⟩
  · rw [exec_seek, runCommand_moveTo_of_handle hfile hok]
  · rw [exec_seek, runCommand_moveTo_of_error herr]

open Machine in
/-- Settles O27: the move of the position to 0. -/
theorem seekToStartResetsThePosition : Obligations.SeekToStartResetsThePosition := by
  refine fun s => ⟨fun h hfile hok => diskWrite_of_exec ?_, fun herr => diskWrite_of_exec ?_,
    fun hv => decodeCmd_code (k := .seekToStart) hv rfl⟩
  · rw [exec_seekToStart, runCommand_moveTo_of_handle hfile hok]
  · rw [exec_seekToStart, runCommand_moveTo_of_error herr]

open Machine in
/-- Settles O29: CLOSE asks the collaborator nothing, so it has one outcome in every state. -/
theorem closeAlwaysYieldsIdleAndReady : Obligations.CloseAlwaysYieldsIdleAndReady := fun s =>
  ⟨_, exec_close s, rfl, rfl, dataAvailable_of_idle rfl rfl, rfl, diskWriteFrame_withDisk s _,
    fun hv => decodeCmd_code (k := .close) hv rfl⟩

open Machine in
/-- Settles O32: the reserved bytes are those outside the codes, and the reference codes are an interval. -/
theorem reservedCommandOnlySetsError : Obligations.ReservedCommandOnlySetsError := by
  refine ⟨fun v s => diskWrite_of_exec (exec_cmdReserved v s), fun v => ?_, decodeCmd_eq_reserved_iff⟩
  rw [decodeCmd_eq_reserved_iff, mem_reference_cmdCodes_iff]
  bv_omega

open Machine in
/-- Settles O33: the two block codes are 0x00 and 0x01. -/
theorem reservedBlockByteFails : Obligations.ReservedBlockByteFails := by
  refine ⟨fun v s => diskWrite_of_exec (exec_blkReserved v s), fun v => ?_⟩
  rw [decodeBlk_eq_reserved_iff, Config.blkRead, Config.blkWrite]
  bv_omega

end Sys2Proof

/-! The words of the four formats (30_encoding.md R70 to R75): what the decoder reads from each shape of word the encoder
builds, and the tick with which the processor presents it. -/

namespace Sys2Proof

theorem hiByte_append_loByte (a : Addr) : hiByte a ++ loByte a = a := by
  unfold hiByte loByte
  ext i hi
  rw [BitVec.getElem_append]
  split
  · simp [BitVec.getLsbD_eq_getElem hi]
  · rename_i h
    simp only [BitVec.getElem_extractLsb', Nat.add_sub_cancel' (Nat.le_of_not_lt h), BitVec.getLsbD_eq_getElem hi]

theorem decodeBytes_busWord (c : Params) {b : Byte} (hb : b.toNat < 32) (a : Addr) (d : Byte) :
    decodeBytes c (busWord b a d).1 (busWord b a d).2 = .ok (decodeVector (b.setWidth 5) a d) := by
  simp [busWord, decodeBytes, hb, hiByte_append_loByte]

theorem decodeBytes_inWord (c : Params) (p : Port) :
    decodeBytes c (inWord p).1 (inWord p).2 = .ok ((decodePortIn c p).toInstr p) := rfl

theorem decodeBytes_outWord (c : Params) (p : Port) (v : Byte) :
    decodeBytes c (outWord p v).1 (outWord p v).2 = .ok ((decodePortOut c p).toInstr p v) := rfl

theorem decodeBytes_cmd (c : Params) (v : Byte) : decodeBytes c .cmd [v] = .ok ((decodeCmd c v).toInstr v) := rfl

theorem decodeBytes_blk (c : Params) (v : Byte) : decodeBytes c .blk [v] = .ok ((decodeBlk v).toInstr v) := rfl

/-- The word of a mapped read (R73) decodes to its row. -/
theorem decodeBytes_inWord_number {c : Params} (hv : c.valid = true) (r : PortIn) {p : Port} (hp : r.number? c = some p) :
    decodeBytes c (inWord p).1 (inWord p).2 = .ok (r.toInstr p) := by
  rw [decodeBytes_inWord, decodePortIn_number hv hp]

/-- The word of a mapped write (R73) decodes to its row. -/
theorem decodeBytes_outWord_number {c : Params} (hv : c.valid = true) (r : PortOut) {p : Port} (hp : r.number? c = some p)
    (v : Byte) : decodeBytes c (outWord p v).1 (outWord p v).2 = .ok (r.toInstr p v) := by
  rw [decodeBytes_outWord, decodePortOut_number hv hp]

/-- The word of a command (R74) decodes to its row. -/
theorem decodeBytes_cmd_code {c : Params} (hv : c.valid = true) (k : Cmd) {v : Byte} (hk : k.code? c = some v) :
    decodeBytes c .cmd [v] = .ok (k.toInstr v) := by
  rw [decodeBytes_cmd, decodeCmd_code hv hk]

/-- Settles O56, row by row: the vector of a BUS row selects it, the number of a port or the code of a command selects its
role, and a default row decodes from a word that no other row has. -/
theorem decodingAnEncodedWordGivesItBack : Obligations.DecodingAnEncodedWordGivesItBack := by
  intro c i hv hwf
  cases i with
  | memoryRead a => exact (decodeBytes_busWord c (by decide) a _).trans (by rw [decodeVector_memoryRead a _ (by decide)])
  | memoryWrite a d => exact (decodeBytes_busWord c (by decide) a d).trans (by rw [decodeVector_memoryWrite a d (by decide)])
  | ioRead a => exact (decodeBytes_busWord c (by decide) a _).trans (by rw [decodeVector_ioRead a _ (by decide)])
  | ioWrite a d => exact (decodeBytes_busWord c (by decide) a d).trans (by rw [decodeVector_ioWrite a d (by decide)])
  | idleMemNostrobe | idleNorequest | idleIoNostrobe | ioReadHold | ioWriteHold => rfl
  | inConStatus => exact decodeBytes_inWord_number hv .conStatus rfl
  | inConData => exact decodeBytes_inWord_number hv .conData rfl
  | inDiskStatus => exact decodeBytes_inWord_number hv .diskStatus rfl
  | inDiskData => exact decodeBytes_inWord_number hv .diskData rfl
  | inDiskBlock => exact decodeBytes_inWord_number hv .diskBlock rfl
  | inUnmapped p =>
    have hp : decodePortIn c p = .unmapped := (decodePortIn_eq_unmapped_iff c p).2 (by simpa [Instr.wf] using hwf)
    exact (decodeBytes_inWord c p).trans (by rw [hp]; rfl)
  | outConCtrl v => exact decodeBytes_outWord_number hv .conCtrl rfl v
  | outConData v => exact decodeBytes_outWord_number hv .conData rfl v
  | outDiskCmd v => exact decodeBytes_outWord_number hv .diskCmd rfl v
  | outDiskData v => exact decodeBytes_outWord_number hv .diskData rfl v
  | outDiskFname v => exact decodeBytes_outWord_number hv .diskFname rfl v
  | outSeekLo v => exact decodeBytes_outWord_number hv .seekLo rfl v
  | outSeekMid v => exact decodeBytes_outWord_number hv .seekMid rfl v
  | outSeekHi v => exact decodeBytes_outWord_number hv .seekHi rfl v
  | outDmaLo v => exact decodeBytes_outWord_number hv .dmaLo rfl v
  | outDmaHi v => exact decodeBytes_outWord_number hv .dmaHi rfl v
  | outDiskBlock v => exact decodeBytes_outWord_number hv .diskBlock rfl v
  | outUnmapped p v =>
    have hp : decodePortOut c p = .unmapped := (decodePortOut_eq_unmapped_iff c p).2 (by simpa [Instr.wf] using hwf)
    exact (decodeBytes_outWord c p v).trans (by rw [hp]; rfl)
  | openRead => exact decodeBytes_cmd_code hv .openRead rfl
  | create => exact decodeBytes_cmd_code hv .create rfl
  | openAppend => exact decodeBytes_cmd_code hv .openAppend rfl
  | seekToStart => exact decodeBytes_cmd_code hv .seekToStart rfl
  | close => exact decodeBytes_cmd_code hv .close rfl
  | listDirectory => exact decodeBytes_cmd_code hv .listDirectory rfl
  | openReadwrite => exact decodeBytes_cmd_code hv .openReadwrite rfl
  | seek => exact decodeBytes_cmd_code hv .seek rfl
  | cmdReserved v =>
    have hk : decodeCmd c v = .reserved := (decodeCmd_eq_reserved_iff c v).2 (by simpa [Instr.wf] using hwf)
    exact (decodeBytes_cmd c v).trans (by rw [hk]; rfl)
  | blockRead | blockWrite => rfl
  | blkReserved v =>
    have hk : decodeBlk v = .reserved := (decodeBlk_eq_reserved_iff v).2 (by simpa [Instr.wf] using hwf)
    exact (decodeBytes_blk c v).trans (by rw [hk]; rfl)

/-- Settles O58: closed words, evaluated. -/
theorem writtenOutWordsDecode : Obligations.WrittenOutWordsDecode := ⟨rfl, rfl, rfl, rfl, rfl, rfl, rfl⟩

/-! The tick that presents a word. -/

theorem busVector_sampleOf (b : Byte) (a : Addr) (d : Byte) :
    busVector (b.getLsbD 4) (sampleOf (b.setWidth 5) a d) = b.setWidth 5 := by
  simp only [busVector, sampleOf]
  revert b
  decide

theorem decodeBus_sampleOf (b : Byte) (a : Addr) (d : Byte) :
    decodeBus (b.getLsbD 4) (sampleOf (b.setWidth 5) a d) = decodeVector (b.setWidth 5) a d :=
  congrArg (decodeVector · a d) (busVector_sampleOf b a d)

theorem portOf_portAddr (p : Port) : portOf (portAddr p) = p := by
  simp [portOf, portAddr]

/-- A leaf is decoded no further. -/
theorem leaf_of_not_dispatches (c : Params) {i : Instr} (h : i.dispatches = false) : Machine.leaf c i = i := by
  rw [Machine.leaf, resolve_of_not_dispatches c h, resolve_of_not_dispatches c h]

/-- An I/O cycle is decoded as far as the row its port selects (R96, R97). -/
theorem leaf_ioRead (c : Params) (p : Port) :
    Machine.leaf c (.ioRead (portAddr p)) = Machine.leaf c ((decodePortIn c p).toInstr p) := by
  have hleaf := (decodePortIn c p).toInstr_not_dispatches p
  rw [leaf_of_not_dispatches c hleaf, Machine.leaf, resolve, portOf_portAddr]
  exact resolve_of_not_dispatches c hleaf

theorem leaf_ioWrite (c : Params) (p : Port) (v : Byte) :
    Machine.leaf c (.ioWrite (portAddr p) v) = Machine.leaf c ((decodePortOut c p).toInstr p v) := by
  have hleaf := resolve_portOut_not_dispatches c (decodePortOut c p) p v
  rw [Machine.leaf, Machine.leaf, resolve_of_not_dispatches c hleaf, resolve, portOf_portAddr]
  rfl

/-- The tick of a PORT word read from port `p` (R72). -/
theorem decodeTick_present_in (c : Params) (p : Port) (d : Byte) :
    decodeTick c false (sampleOf 0b00110#5 (portAddr p) d) = Machine.leaf c ((decodePortIn c p).toInstr p) :=
  (congrArg (Machine.leaf c) (decodeBus_ioRead false (portAddr p) d)).trans (leaf_ioRead c p)

/-- The tick of a PORT word that writes `v` to port `p` (R72). -/
theorem decodeTick_present_out (c : Params) (p : Port) (v : Byte) :
    decodeTick c false (sampleOf 0b00101#5 (portAddr p) v) = Machine.leaf c ((decodePortOut c p).toInstr p v) :=
  (congrArg (Machine.leaf c) (decodeBus_ioWrite (portAddr p) v)).trans (leaf_ioWrite c p v)

/-- The two directions of a PORT word (R72). -/
theorem direction_cases {dir : Byte} (h : dir.toNat < 2) : dir = 0#8 ∨ dir = 1#8 := by
  bv_omega

/-- A word that decodes can be presented, and the tick that presents it decodes as far as the word does. -/
theorem presentWord_of_decodeBytes {c : Params} (hv : c.valid = true) {w : Format × List Byte} {i : Instr}
    (h : decodeBytes c w.1 w.2 = .ok i) :
    ∃ prev S, presentWord c w = some (prev, S) ∧ decodeTick c prev S = Machine.leaf c i := by
  match w with
  | (.bus, [b, lo, hi, d]) =>
    simp only [decodeBytes] at h
    split at h <;> cases h
    exact ⟨_, _, rfl, congrArg (Machine.leaf c) (decodeBus_sampleOf b (hi ++ lo) d)⟩
  | (.port, [p, dir, v]) =>
    simp only [decodeBytes] at h
    split at h <;> cases h
    rename_i hdir
    obtain rfl | rfl := direction_cases hdir
    · exact ⟨_, _, rfl, decodeTick_present_in c p 0#8⟩
    · exact ⟨_, _, rfl, decodeTick_present_out c p v⟩
  | (.cmd, [v]) =>
    cases h
    refine ⟨_, _, rfl, (decodeTick_present_out c c.portDiskCmd v).trans ?_⟩
    rw [decodePortOut_number hv (r := .diskCmd) rfl, leaf_of_not_dispatches c ((decodeCmd c v).toInstr_not_dispatches v)]
    exact resolve_of_not_dispatches c ((decodeCmd c v).toInstr_not_dispatches v)
  | (.blk, [v]) =>
    cases h
    refine ⟨_, _, rfl, (decodeTick_present_out c c.portDiskBlock v).trans ?_⟩
    rw [decodePortOut_number hv (r := .diskBlock) rfl, leaf_of_not_dispatches c ((decodeBlk v).toInstr_not_dispatches v)]
    exact resolve_of_not_dispatches c ((decodeBlk v).toInstr_not_dispatches v)

/-- Settles O57: the encoded word decodes (O56), and the tick that presents it decodes with it. -/
theorem presentedTickDecodesToTheInstruction : Obligations.PresentedTickDecodesToTheInstruction :=
  fun c i hv hwf => presentWord_of_decodeBytes hv (decodingAnEncodedWordGivesItBack c i hv hwf)

/-- Settles O46: the class of the decoder's row was compared with R93's procedure setting by setting. -/
theorem classificationAgreesWithTheTable : Obligations.ClassificationAgreesWithTheTable :=
  fun S prev latch => Machine.classOf_decodeBus latch prev S

end Sys2Proof

/-! That every step keeps the invariant: its services keep the part they could break (`ServiceInvariant`), and the other
steps of the tick, the boot stage and the reset write the rest. -/

namespace Sys2Proof

theorem Params.valid_fnameMax {c : Params} (h : c.valid = true) : 1 ≤ c.fnameMax := by
  simp_all [Params.valid]

namespace Machine

/-- The part of `Invariant` that a service could break: the canonical forms, the DiskSession's bounds and the transmit flag,
each under its name there. -/
structure ServiceInvariant (s : State) : Prop where
  cfg_valid : s.cfg.valid = true
  mem_wf : s.mem.wf = true
  files_wf : s.files.wf = true
  fname_bound : s.disk.fname.length ≤ s.cfg.fnameMax
  fname_nonzero : 0x00#8 ∉ s.disk.fname
  file_exists : ∀ h, s.disk.file = some h → fsExists s h.name = true
  dir_names : ∀ k, s.disk.dir = some k → ∀ n ∈ k.rest, isDotName n = false
  tdre_set : s.con.tdre = true
  blk_result : s.disk.blkResult = Config.blockOk ∨ s.disk.blkResult = s.cfg.blockFail

theorem Invariant.service {s : State} (h : Invariant s) : ServiceInvariant s := { h with }

namespace ServiceInvariant

variable {s t : State}

/-! The open-class commands (R141 to R144, R148). An attempt to open may take the open handle's file away, so what it keeps
is stated with no handle open; `openClass` then opens one of an existing file or drops the orphan (D42). -/

theorem withFile_none (h : ServiceInvariant s) : ServiceInvariant (setFile s none) := { h with file_exists := nofun }

theorem of_withFile_none (h : ServiceInvariant (setFile s none))
    (hfile : ∀ k, s.disk.file = some k → fsExists s k.name = true) : ServiceInvariant s :=
  { h with file_exists := hfile }

theorem setFile_some (h : ServiceInvariant (setFile s none)) {k : Handle} (hk : fsExists s k.name = true) :
    ServiceInvariant (setFile s (some k)) :=
  { h with file_exists := fun _ hfile => by cases hfile; exact hk }

protected theorem fsRemove (h : ServiceInvariant (setFile s none)) (n : Name) :
    ServiceInvariant (setFile (fsRemove s n) none) :=
  { h with files_wf := Files.remove_wf h.files_wf n, file_exists := nofun }

protected theorem fsCreateEmpty (h : ServiceInvariant (setFile s none)) {n : Name} (hn : n ≠ []) :
    ServiceInvariant (setFile (fsCreateEmpty s n) none) :=
  { h with files_wf := Files.put_wf h.files_wf hn, file_exists := nofun }

protected theorem openAttempt (h : ServiceInvariant s) (kind : OpenKind) (n : Name) :
    ServiceInvariant (setFile (openAttempt kind n s).1 none) := by
  obtain ⟨-, -, -, ⟨-, ho⟩ | ⟨-, ho⟩ | ⟨-, ho⟩⟩ | ⟨hn, -, -, ho⟩ | ⟨-, ho⟩ | ⟨-, -, -, -, -, ho⟩ :=
    openAttempt_cases kind n s <;> rw [ho]
  case inr.inl =>
    split
    · exact (h.withFile_none.fsRemove n).fsCreateEmpty hn
    · exact h.withFile_none.fsCreateEmpty hn
  case inr.inr.inr => exact h.withFile_none.fsRemove n
  all_goals exact h.withFile_none

protected theorem dropOrphan (h : ServiceInvariant (setFile s none)) : ServiceInvariant (dropOrphan s) := by
  obtain ⟨hd, hfile⟩ | ⟨hd, -⟩ := dropOrphan_cases s <;> rw [hd]
  · exact h.of_withFile_none hfile
  · exact h

protected theorem raiseError (h : ServiceInvariant s) (k : ErrorKind) : ServiceInvariant (raiseError k s) := { h with }

protected theorem succeed (h : ServiceInvariant s) : ServiceInvariant (succeed s) := { h with }

protected theorem raiseBlockError (h : ServiceInvariant s) (k : ErrorKind) : ServiceInvariant (raiseBlockError k s) :=
  { h with blk_result := .inr rfl }

protected theorem succeedBlock (h : ServiceInvariant s) : ServiceInvariant (succeedBlock s) :=
  { h with blk_result := .inl rfl }

protected theorem consumeName (h : ServiceInvariant s) : ServiceInvariant (consumeName s) :=
  { h with fname_bound := Nat.zero_le _, fname_nonzero := List.not_mem_nil }

end ServiceInvariant

/-- A cursor over entries that are no dot names has none still to come (R33, R147). -/
theorem cursorOver_names {c : Params} {l : List Name} (hl : ∀ n ∈ l, isDotName n = false) :
    ∀ k, cursorOver c l = some k → ∀ n ∈ k.rest, isDotName n = false := by
  intro k hk n hn
  cases l with
  | nil => cases hk
  | cons e l =>
    cases hk
    rw [cursorAt_rest] at hn
    exact hl n (List.mem_cons_of_mem e hn)

/-- A successful open leaves a file of that name (R142 to R144, R148). -/
theorem fsExists_of_openAttempt {kind : OpenKind} {n : Name} {s t : State} {r : AccessMode × Nat}
    (h : openAttempt kind n s = (t, some r)) : fsExists t n = true := by
  obtain ⟨-, -, he, ⟨-, ho⟩ | ⟨-, ho⟩ | ⟨-, ho⟩⟩ | ⟨-, -, -, ho⟩ | ⟨-, ho⟩ | ⟨-, -, -, -, -, ho⟩ :=
    openAttempt_cases kind n s <;> cases ho.symm.trans h
  case inr.inl => simp only [fsExists_fsCreateEmpty, decide_true, Bool.true_or]
  all_goals exact he

namespace ServiceInvariant

variable {s t : State}

protected theorem openClass (h : ServiceInvariant s) (kind : OpenKind) : ServiceInvariant (openClass kind s) := by
  have hattempt := h.consumeName.openAttempt kind s.disk.fname
  obtain ⟨-, ho⟩ | ⟨-, t, m, p, ht, ho⟩ | ⟨-, t, ht, ho⟩ := openClass_cases kind s <;> rw [ho]
  · exact h.raiseError .proto
  · rw [ht] at hattempt
    exact (hattempt.setFile_some (fsExists_of_openAttempt ht)).succeed
  · rw [ht] at hattempt
    exact hattempt.dropOrphan.raiseError .store

/-! The other commands. A move of the position keeps the name of the handle. -/

protected theorem setPos (h : ServiceInvariant s) {k : Handle} (hk : s.disk.file = some k) (p : Nat) :
    ServiceInvariant (setPos s k p) :=
  h.withFile_none.setFile_some (k := { k with pos := p }) (h.file_exists k hk)

protected theorem moveTo (h : ServiceInvariant s) (p : Nat) : ServiceInvariant (moveTo p s) := by
  obtain ⟨-, ho⟩ | ⟨k, -, -, ho⟩ | ⟨k, hk, -, ho⟩ := moveTo_cases p s <;> rw [ho]
  · exact h.raiseError .proto
  · exact h.raiseError .store
  · exact (h.setPos hk p).succeed

protected theorem setDir (h : ServiceInvariant s) {c : Option Cursor}
    (hc : ∀ k, c = some k → ∀ n ∈ k.rest, isDotName n = false) : ServiceInvariant (setDir s c) :=
  { h with dir_names := hc }

protected theorem closeSession (h : ServiceInvariant s) : ServiceInvariant (closeSession s) :=
  (h.withFile_none.setDir (c := none) nofun).succeed

/-- What LIST_DIRECTORY leaves out it never delivers (R147). -/
protected theorem listDirectory (h : ServiceInvariant s) : ServiceInvariant (listDirectory s) := by
  obtain ⟨-, ho⟩ | ⟨-, ho⟩ := listDirectory_cases s <;> rw [ho]
  · exact h.raiseError .store
  · refine (h.setDir (cursorOver_names fun n hn => ?_)).succeed
    simpa using (List.mem_filter.mp hn).2

protected theorem setLastCmd (h : ServiceInvariant s) (v : Byte) : ServiceInvariant (setLastCmd s v) := { h with }

protected theorem ioReadDone (h : ServiceInvariant s) (b : Byte) : ServiceInvariant (ioReadDone b s) := { h with }

protected theorem ioWriteDone (h : ServiceInvariant s) : ServiceInvariant (ioWriteDone s) := { h with }

/-- A command's service keeps what its command keeps (R131). -/
protected theorem runCommand {f : State → State} (hf : ∀ s, ServiceInvariant s → ServiceInvariant (f s))
    (h : ServiceInvariant s) (v : Byte) : ServiceInvariant (runCommand v f s) :=
  (hf _ (h.setLastCmd v)).ioWriteDone

/-! The ports of the disk controller (R121, R127 to R129) and the block operations (R150, R151). -/

/-- A write to a file that exists keeps every name in the store. -/
protected theorem fsWrite (h : ServiceInvariant s) {n : Name} (hn : fsExists s n = true) (p : Nat) (l : List Byte) :
    ServiceInvariant (fsWrite s n p l) :=
  { h with
    files_wf := Files.put_wf h.files_wf (Files.ne_nil_of_find? h.files_wf hn)
    file_exists := fun k hk => by rw [fsExists_fsWrite, h.file_exists k hk, Bool.or_true] }

protected theorem memWriteMany (h : ServiceInvariant s) (a : Nat) (l : List Byte) : ServiceInvariant (memWriteMany s a l) :=
  { h with mem_wf := memWriteMany_wf s a l h.mem_wf }

protected theorem fnameWrite (h : ServiceInvariant s) (v : Byte) : ServiceInvariant (fnameWrite v s) := by
  obtain ⟨-, ho⟩ | ⟨hv, -, ho⟩ | ⟨hv, -, hroom, ho⟩ | ⟨-, -, -, ho⟩ := fnameWrite_cases v s <;> rw [ho]
  · exact { h with }
  · exact { h with
      fname_bound := Params.valid_fnameMax h.cfg_valid
      fname_nonzero := by simpa using Ne.symm hv }
  · exact { h with
      fname_bound := by simpa using hroom
      fname_nonzero := by simpa [h.fname_nonzero] using Ne.symm hv }
  · exact h

protected theorem dirDataRead (h : ServiceInvariant s) {k : Cursor} (hk : s.disk.dir = some k) :
    ServiceInvariant (dirDataRead k s).2 := by
  have hrest := h.dir_names k hk
  obtain ⟨b, l, -, ho⟩ | ⟨e, l, -, hl, ho⟩ | ⟨-, -, ho⟩ := dirDataRead_cases k s <;> rw [ho]
  · exact h.setDir fun _ hc => by cases hc; exact hrest
  · exact h.setDir (cursorOver_names (l := e :: l) (hl ▸ hrest))
  · exact (h.setDir (c := none) nofun).succeed

protected theorem fileDataRead (h : ServiceInvariant s) : ServiceInvariant (fileDataRead s).2 := by
  obtain ⟨k, -, -, -, ho⟩ | ⟨k, hk, -, -, ho⟩ | ⟨-, ho⟩ := fileDataRead_cases s <;> rw [ho]
  · exact h.raiseError .store
  · exact h.setPos hk (k.pos + 1)
  · exact h

protected theorem diskDataRead (h : ServiceInvariant s) : ServiceInvariant (diskDataRead s).2 := by
  obtain ⟨k, hk, ho⟩ | ⟨-, ho⟩ := diskDataRead_cases s <;> rw [ho]
  · exact h.dirDataRead hk
  · exact h.fileDataRead

protected theorem diskDataWrite (h : ServiceInvariant s) (v : Byte) : ServiceInvariant (diskDataWrite v s) := by
  obtain ⟨-, ho⟩ | ⟨k, -, -, ho⟩ | ⟨k, hk, -, -, ho⟩ := diskDataWrite_cases v s <;> rw [ho]
  · exact h
  · exact h.raiseError .store
  · exact (h.fsWrite (h.file_exists k hk) k.pos [v]).setPos hk (k.pos + 1)

protected theorem blockRead (h : ServiceInvariant s) : ServiceInvariant (blockRead s) := by
  obtain ⟨-, ho⟩ | ⟨k, -, -, ho⟩ | ⟨k, hk, -, -, ho⟩ := blockRead_cases s <;> rw [ho]
  · exact h.raiseBlockError .proto
  · exact h.raiseBlockError .store
  · exact ((h.memWriteMany _ _).setPos hk _).succeedBlock

protected theorem blockWrite (h : ServiceInvariant s) : ServiceInvariant (blockWrite s) := by
  obtain ⟨-, ho⟩ | ⟨k, -, -, ho⟩ | ⟨k, hk, -, -, ho⟩ := blockWrite_cases s <;> rw [ho]
  · exact h.raiseBlockError .proto
  · exact h.raiseBlockError .store
  · exact ((h.fsWrite (h.file_exists k hk) k.pos _).setPos hk _).succeedBlock

protected theorem conDataReceive (h : ServiceInvariant s) : ServiceInvariant (conDataReceive s) := by
  obtain ⟨-, ho⟩ | ⟨b, l, -, -, ho⟩ | ⟨-, -, ho⟩ := conDataReceive_cases s <;> rw [ho]
  · exact h
  · exact { h with }
  · exact { h with }

/-- Every instruction a tick can be decoded to keeps the invariant. -/
theorem exec_not_dispatches (h : ServiceInvariant s) {i : Instr} (hi : i.dispatches = false) (hnext : exec i s = .next t) :
    ServiceInvariant t := by
  cases i with
  | ioRead | ioWrite | outDiskCmd | outDiskBlock => cases hi
  | memoryWrite a v => cases hnext; exact { h with mem_wf := memWrite_wf s a.toNat v h.mem_wf }
  | ioReadHold =>
    rcases hlatch : s.ioLatch with _ | b
    · rw [exec_ioReadHold_of_no_latch hlatch] at hnext; cases hnext; exact { h with }
    · rw [exec_ioReadHold_of_latch hlatch] at hnext; cases hnext; split <;> exact { h with }
  | inConData => cases hnext; exact h.conDataReceive.ioReadDone _
  | outConData v => cases hnext; exact { h with tdre_set := rfl }
  | inDiskData => cases hnext; exact h.diskDataRead.ioReadDone _
  | outDiskData v => cases hnext; exact (h.diskDataWrite v).ioWriteDone
  | outDiskFname v => cases hnext; exact (h.fnameWrite v).ioWriteDone
  | openRead => cases hnext; exact h.runCommand (fun _ hs => hs.openClass .openRead) _
  | create => cases hnext; exact h.runCommand (fun _ hs => hs.openClass .create) _
  | openAppend => cases hnext; exact h.runCommand (fun _ hs => hs.openClass .openAppend) _
  | openReadwrite => cases hnext; exact h.runCommand (fun _ hs => hs.openClass .openReadwrite) _
  | seekToStart => cases hnext; exact h.runCommand (fun _ hs => hs.moveTo 0) _
  | seek => cases hnext; exact h.runCommand (fun _ hs => hs.moveTo _) _
  | close => cases hnext; exact h.runCommand (fun _ hs => hs.closeSession) _
  | listDirectory => cases hnext; exact h.runCommand (fun _ hs => hs.listDirectory) _
  | cmdReserved v => cases hnext; exact h.runCommand (fun _ hs => hs.raiseError .proto) v
  | blockRead => cases hnext; exact h.blockRead.ioWriteDone
  | blockWrite => cases hnext; exact h.blockWrite.ioWriteDone
  | blkReserved v => cases hnext; exact (h.raiseBlockError .proto).ioWriteDone
  | memoryRead | idleMemNostrobe | idleNorequest | idleIoNostrobe | ioWriteHold | inDiskStatus | inDiskBlock | inConStatus
  | inUnmapped | outUnmapped | outConCtrl | outSeekLo | outSeekMid | outSeekHi | outDmaLo | outDmaHi =>
    cases hnext; exact { h with }

/-- Every service keeps the invariant: an instruction does what its leaf does. -/
protected theorem exec (h : ServiceInvariant s) {i : Instr} (hnext : exec i s = .next t) : ServiceInvariant t :=
  h.exec_not_dispatches (leaf_not_dispatches s.cfg i) ((exec_leaf i s).trans hnext)

end ServiceInvariant

/-! The latch (R23, R99): every write ends by clearing it, so a byte is latched only by a cycle that asserts the request. -/

/-- Every command row ends as an IoWrite (R97, R131). -/
theorem exec_cmd_ends (k : Cmd) (v : Byte) (s : State) : ∃ u, exec (k.toInstr v) s = .next (ioWriteDone u) := by
  cases k <;> exact ⟨_, rfl⟩

/-- Every block row ends as an IoWrite (R97, R132). -/
theorem exec_blk_ends (k : Blk) (v : Byte) (s : State) : ∃ u, exec (k.toInstr v) s = .next (ioWriteDone u) := by
  cases k <;> exact ⟨_, rfl⟩

/-- Every write role ends as an IoWrite (R97). -/
theorem exec_portOut_ends (r : PortOut) (p : Port) (v : Byte) (s : State) :
    ∃ u, exec (r.toInstr p v) s = .next (ioWriteDone u) := by
  cases r with
  | diskCmd => rw [PortOut.toInstr, exec_outDiskCmd]; exact exec_cmd_ends _ v s
  | diskBlock => rw [PortOut.toInstr, exec_outDiskBlock]; exact exec_blk_ends _ v s
  | _ => exact ⟨_, rfl⟩

theorem exec_ioWrite_ends (a : Addr) (v : Byte) (s : State) : ∃ u, exec (.ioWrite a v) s = .next (ioWriteDone u) := by
  rw [exec_ioWrite]
  exact exec_portOut_ends _ _ v s

/-- The service of a BUS row leaves a byte latched only in the two read classes. -/
theorem ioLatch_of_exec_busRow {i : Instr} {s t : State} {k : BusClass} (hclass : classOf s.ioLatch i = some k)
    (hnext : exec i s = .next t) : t.ioLatch = none ∨ k = .ioRead ∨ k = .ioReadHold := by
  cases i with
  | memoryRead | memoryWrite | idleMemNostrobe | idleNorequest | idleIoNostrobe | ioWriteHold => cases hnext; exact .inl rfl
  | ioRead a => cases hclass; exact .inr (.inl rfl)
  | ioWrite a v =>
    obtain ⟨u, hu⟩ := exec_ioWrite_ends a v s
    cases hu.symm.trans hnext
    exact .inl rfl
  | ioReadHold =>
    rcases hlatch : s.ioLatch with _ | b
    · cases (exec_ioReadHold_of_no_latch hlatch).symm.trans hnext
      exact .inl rfl
    · rw [classOf, hlatch] at hclass
      cases hclass
      exact .inr (.inr rfl)
  | _ => cases hclass

/-- The two read classes assert the request line (R93). -/
theorem iorq_of_classify_read {S : Sample} {prev : Bool} {latch : Option Byte}
    (h : classify S prev latch = .ioRead ∨ classify S prev latch = .ioReadHold) : S.iorq = true := by
  obtain ⟨mreq, iorq, rd, wr, a, d⟩ := S
  cases iorq with
  | true => rfl
  | false => cases mreq <;> cases rd <;> cases wr <;> simp [classify] at h

/-! The step. -/

theorem step_of_boot {s : State} (hboot : s.phase = .boot) (h : (nextInput s).systemReset = false) :
    step s = bootStage (nextInput s) (takeInput s) := by
  simp [step, h, hboot]

theorem step_of_halt {s : State} (hhalt : s.phase = .halt) (h : (nextInput s).systemReset = false) :
    step s = .fault .halted := by
  simp [step, h, hhalt]

/-- What the boot stage can do (R180, R181). -/
theorem bootStage_cases (e : Input) (s : State) :
    ((e.fsInitOk = false ∨ s.files.find? s.cfg.firmwareName = none ∨ s.draws.fsFault = true)
      ∧ bootStage e s = .next (haltBoot (bootCreate s)))
    ∨ (e.fsInitOk = true ∧ s.draws.fsFault = false ∧ ∃ image, s.files.find? s.cfg.firmwareName = some image
      ∧ ((Config.memSize < image.length ∧ bootStage e s = .refused .imageTooLong)
        ∨ (image.length ≤ Config.memSize ∧ bootStage e s = .next (release (memWriteMany (bootCreate s) 0 image))))) := by
  unfold bootStage
  rcases hfind : s.files.find? s.cfg.firmwareName with _ | image
  · simp [fsExists, hfind]
  · by_cases hinit : e.fsInitOk = true <;> by_cases hfault : s.draws.fsFault = true <;>
      by_cases hlen : Config.memSize < image.length <;>
      simp [fsExists, fsLen, fsContents, hfind, hinit, hfault, hlen]
    · exact Nat.le_of_not_lt hlen

namespace ServiceInvariant

variable {s : State}

/-- Of what steps (a) and (b) and the taking of the input write, the part of the invariant names nothing. -/
protected theorem beginTick (h : ServiceInvariant s) : ServiceInvariant (beginTick (takeInput s)) := { h with }

/-- Between ticks, with the lines as step (f) leaves them, the invariant is the part a service keeps and the latch's. -/
protected theorem endTick (h : ServiceInvariant s) {S : Sample} (hrun : s.phase = .run) (hreset : s.resetLine = false)
    (hlatch : s.ioLatch.isSome = true → S.iorq = true) : Invariant (endTick S s) :=
  { h with
    bus_idle := ⟨rfl, rfl⟩
    reset_line := by simp [Machine.endTick, hrun, hreset]
    int_line := fun hphase => absurd hrun hphase
    latch_held := hlatch }

end ServiceInvariant

namespace Invariant

variable {s t : State}

protected theorem takeInput (h : Invariant s) : Invariant (takeInput s) := { h with }

/-- The registers of R44 meet the invariant, with the lines of R180. -/
protected theorem bootCreate (h : Invariant s) : Invariant (bootCreate s) :=
  { h with
    fname_bound := Nat.zero_le _
    fname_nonzero := List.not_mem_nil
    file_exists := nofun
    dir_names := nofun
    tdre_set := rfl
    blk_result := .inl rfl
    bus_idle := ⟨rfl, rfl⟩
    reset_line := rfl
    int_line := fun _ => rfl
    latch_held := nofun }

protected theorem fullReset (h : Invariant s) : Invariant (fullReset s) := { h.bootCreate with mem_wf := rfl }

protected theorem bootStage (h : Invariant s) {e : Input} (hnext : bootStage e s = .next t) : Invariant t := by
  obtain ⟨-, hboot⟩ | ⟨-, -, image, -, ⟨-, hboot⟩ | ⟨-, hboot⟩⟩ := bootStage_cases e s <;> cases hboot.symm.trans hnext
  · exact { h.bootCreate with reset_line := rfl, int_line := fun _ => rfl }
  · exact { h.bootCreate with
      mem_wf := memWriteMany_wf _ 0 image h.mem_wf
      reset_line := rfl
      int_line := fun hphase => absurd rfl hphase }

/-- A tick: its service keeps its part, and leaves the lines of the other steps alone (R101). -/
theorem tick (h : Invariant s) (hrun : s.phase = .run) (hreset : (nextInput s).systemReset = false)
    (hnext : step s = .next t) : Invariant t := by
  have hclass := classOf_decodeBus s.ioLatch s.prevIorq (nextInput s).sample
  obtain ⟨u, hexec, ⟨hphase, -, -, hline, -⟩, -⟩ := exec_busRow (s := Machine.beginTick (Machine.takeInput s)) hclass
  rw [step_of_run hrun hreset, hexec] at hnext
  cases hnext
  refine (h.service.beginTick.exec hexec).endTick (hphase.trans hrun) (hline.trans ?_) fun hlatch => ?_
  · exact h.reset_line.trans (by simp [hrun])
  · have hread := ioLatch_of_exec_busRow (s := Machine.beginTick (Machine.takeInput s)) hclass hexec
    exact iorq_of_classify_read (hread.resolve_left (Option.isSome_iff_ne_none.1 hlatch))

end Invariant

end Machine

/-- Settles O54, field by field at the reset state. -/
theorem resetMeetsTheInvariant : Obligations.ResetMeetsTheInvariant where
  cfg_valid := by decide
  mem_wf := rfl
  files_wf := rfl
  fname_bound := Nat.zero_le _
  fname_nonzero := List.not_mem_nil
  file_exists := nofun
  dir_names := nofun
  tdre_set := rfl
  blk_result := .inl rfl
  bus_idle := ⟨rfl, rfl⟩
  reset_line := rfl
  int_line := fun _ => rfl
  latch_held := nofun

open Machine in
/-- Settles O55: a power cycle (R184), the boot stage (R180), or a tick (R90); in `Halt` there is no next state. -/
theorem everyStepKeepsTheInvariant : Obligations.EveryStepKeepsTheInvariant := by
  intro s t h hnext
  cases hreset : (nextInput s).systemReset with
  | true =>
    cases (step_of_systemReset hreset).symm.trans hnext
    exact h.takeInput.fullReset
  | false =>
    cases hphase : s.phase with
    | boot => exact h.takeInput.bootStage ((step_of_boot hphase hreset).symm.trans hnext)
    | run => exact h.tick hphase hreset hnext
    | halt => cases (step_of_halt hphase hreset).symm.trans hnext

end Sys2Proof

/-! What an instruction can do to the rest of the machine, said once (`RowEffect`, `exec_effect`); the statements on who
writes memory, the store, the streams and the operand registers are read off it. -/

namespace Sys2Proof.Machine

/-- Memory, console and store are as before, and so are the operand registers of the DiskSession. -/
def rowFrame (s t : State) : Prop :=
  sameMemory s t ∧ sameConsole s t ∧ t.files = s.files ∧ seekPosition t.disk = seekPosition s.disk
    ∧ dmaAddress t.disk = dmaAddress s.disk

/-- What an operation of the disk controller leaves alone: `last_cmd` is written by the dispatcher only (R131). -/
def operationFrame (s t : State) : Prop := rowFrame s t ∧ t.disk.lastCmd = s.disk.lastCmd

theorem rowFrame_withDisk {s : State} {d : DiskSession} (hseek : seekPosition d = seekPosition s.disk)
    (hdma : dmaAddress d = dmaAddress s.disk) : rowFrame s (s.withDisk d) :=
  ⟨fun _ => rfl, ⟨rfl, rfl, rfl⟩, rfl, hseek, hdma⟩

theorem rowFrame_refl (s : State) : rowFrame s s := rowFrame_withDisk rfl rfl

theorem operationFrame_withDisk {s : State} {d : DiskSession} (hcmd : d.lastCmd = s.disk.lastCmd)
    (hseek : seekPosition d = seekPosition s.disk) (hdma : dmaAddress d = dmaAddress s.disk) :
    operationFrame s (s.withDisk d) :=
  ⟨rowFrame_withDisk hseek hdma, hcmd⟩

theorem operationFrame_refl (s : State) : operationFrame s s := operationFrame_withDisk rfl rfl rfl

/-! The operations of the disk controller. -/

/-- An attempt to open writes nothing but the store, and that for CREATE only (R142 to R144, R148). -/
theorem openAttempt_eq_withFiles (kind : OpenKind) (n : Name) (s : State) :
    ∃ f, (openAttempt kind n s).1 = s.withFiles f ∧ (kind ≠ .create → f = s.files) := by
  obtain ⟨-, -, -, ⟨-, h⟩ | ⟨-, h⟩ | ⟨-, h⟩⟩ | ⟨-, -, hkind, h⟩ | ⟨-, h⟩ | ⟨-, -, -, -, hkind, h⟩ :=
    openAttempt_cases kind n s <;> rw [h]
  case inr.inl =>
    split <;> exact ⟨_, rfl, fun hne => absurd hkind hne⟩
  case inr.inr.inr => exact ⟨_, rfl, fun hne => absurd hkind hne⟩
  all_goals exact ⟨s.files, rfl, fun _ => rfl⟩

theorem openClass_frame (kind : OpenKind) (s : State) :
    ∃ f, operationFrame (s.withFiles f) (openClass kind s) ∧ (kind ≠ .create → f = s.files) := by
  obtain ⟨f, hattempt, hfiles⟩ := openAttempt_eq_withFiles kind s.disk.fname (consumeName s)
  obtain ⟨-, h⟩ | ⟨-, t, m, p, ht, h⟩ | ⟨-, t, ht, h⟩ := openClass_cases kind s
  case inl => exact ⟨s.files, h ▸ operationFrame_withDisk rfl rfl rfl, fun _ => rfl⟩
  all_goals
    rw [ht] at hattempt
    subst hattempt
    refine ⟨f, ?_, hfiles⟩
  · exact h ▸ operationFrame_withDisk (s := s.withFiles f) rfl rfl rfl
  · obtain ⟨hd, -⟩ | ⟨hd, -⟩ := dropOrphan_cases ((consumeName s).withFiles f) <;> rw [h, hd] <;>
      exact operationFrame_withDisk (s := s.withFiles f) rfl rfl rfl

theorem moveTo_frame (p : Nat) (s : State) : operationFrame s (moveTo p s) := by
  obtain ⟨-, h⟩ | ⟨f, -, -, h⟩ | ⟨f, -, -, h⟩ := moveTo_cases p s <;> rw [h] <;> exact operationFrame_withDisk rfl rfl rfl

theorem closeSession_frame (s : State) : operationFrame s (closeSession s) := operationFrame_withDisk rfl rfl rfl

theorem listDirectory_frame (s : State) : operationFrame s (listDirectory s) := by
  obtain ⟨-, h⟩ | ⟨-, h⟩ := listDirectory_cases s <;> rw [h] <;> exact operationFrame_withDisk rfl rfl rfl

theorem raiseError_frame (k : ErrorKind) (s : State) : operationFrame s (raiseError k s) :=
  operationFrame_withDisk rfl rfl rfl

theorem fnameWrite_frame (v : Byte) (s : State) : operationFrame s (fnameWrite v s) := by
  obtain ⟨-, h⟩ | ⟨-, -, h⟩ | ⟨-, -, -, h⟩ | ⟨-, -, -, h⟩ := fnameWrite_cases v s <;> rw [h] <;>
    exact operationFrame_withDisk rfl rfl rfl

theorem dirDataRead_frame (k : Cursor) (s : State) : operationFrame s (dirDataRead k s).2 := by
  obtain ⟨b, l, -, h⟩ | ⟨e, l, -, -, h⟩ | ⟨-, -, h⟩ := dirDataRead_cases k s <;> rw [h] <;>
    exact operationFrame_withDisk rfl rfl rfl

theorem fileDataRead_frame (s : State) : operationFrame s (fileDataRead s).2 := by
  obtain ⟨f, -, -, -, h⟩ | ⟨f, -, -, -, h⟩ | ⟨-, h⟩ := fileDataRead_cases s <;> rw [h] <;>
    exact operationFrame_withDisk rfl rfl rfl

theorem diskDataRead_frame (s : State) : operationFrame s (diskDataRead s).2 := by
  obtain ⟨k, -, h⟩ | ⟨-, h⟩ := diskDataRead_cases s <;> rw [h]
  · exact dirDataRead_frame k s
  · exact fileDataRead_frame s

theorem diskDataWrite_frame (v : Byte) (s : State) : ∃ f, operationFrame (s.withFiles f) (diskDataWrite v s) := by
  obtain ⟨-, h⟩ | ⟨f, -, -, h⟩ | ⟨f, -, -, -, h⟩ := diskDataWrite_cases v s <;> rw [h]
  · exact ⟨s.files, operationFrame_refl s⟩
  · exact ⟨s.files, raiseError_frame .store s⟩
  · exact ⟨_, operationFrame_withDisk (s := fsWrite s f.name f.pos [v]) rfl rfl rfl⟩

theorem raiseBlockError_frame (k : ErrorKind) (s : State) : operationFrame s (raiseBlockError k s) :=
  operationFrame_withDisk rfl rfl rfl

theorem blockRead_frame (s : State) : ∃ m, operationFrame (s.withMem m) (blockRead s) := by
  obtain ⟨-, h⟩ | ⟨f, -, -, h⟩ | ⟨f, -, -, -, h⟩ := blockRead_cases s <;> rw [h]
  · exact ⟨s.mem, raiseBlockError_frame .proto s⟩
  · exact ⟨s.mem, raiseBlockError_frame .store s⟩
  · exact ⟨_, operationFrame_withDisk (s := memWriteMany s (dmaAddress s.disk).toNat _) rfl rfl rfl⟩

theorem blockWrite_frame (s : State) : ∃ f, operationFrame (s.withFiles f) (blockWrite s) := by
  obtain ⟨-, h⟩ | ⟨f, -, -, h⟩ | ⟨f, -, -, -, h⟩ := blockWrite_cases s <;> rw [h]
  · exact ⟨s.files, raiseBlockError_frame .proto s⟩
  · exact ⟨s.files, raiseBlockError_frame .store s⟩
  · exact ⟨_, operationFrame_withDisk (s := fsWrite s f.name f.pos _) rfl rfl rfl⟩

/-! The effect of an instruction. -/

/-- What an instruction that no dispatcher hands on can do (R20, R34, R35, R42, R110 to R113, R122 to R126, R154): write
memory, or the store, or an operand register, or run the console, each by the rows named; every other row leaves all of
it. -/
inductive RowEffect (s : State) : Instr → State → Prop where
  | quiet {i t} (hframe : rowFrame s t) : RowEffect s i t
  | memoryWrite {a v t} (m) (hframe : rowFrame (s.withMem m) t) : RowEffect s (.memoryWrite a v) t
  | blockRead {t} (m) (hframe : rowFrame (s.withMem m) t) : RowEffect s .blockRead t
  | create {t} (f) (hframe : rowFrame (s.withFiles f) t) : RowEffect s .create t
  | blockWrite {t} (f) (hframe : rowFrame (s.withFiles f) t) : RowEffect s .blockWrite t
  | outDiskData {v t} (f) (hframe : rowFrame (s.withFiles f) t) : RowEffect s (.outDiskData v) t
  | outSeekLo {v} : RowEffect s (.outSeekLo v) (ioWriteDone (s.withDisk { s.disk with seekLo := v }))
  | outSeekMid {v} : RowEffect s (.outSeekMid v) (ioWriteDone (s.withDisk { s.disk with seekMid := v }))
  | outSeekHi {v} : RowEffect s (.outSeekHi v) (ioWriteDone (s.withDisk { s.disk with seekHi := v }))
  | outDmaLo {v} : RowEffect s (.outDmaLo v) (ioWriteDone (s.withDisk { s.disk with dmaLo := v }))
  | outDmaHi {v} : RowEffect s (.outDmaHi v) (ioWriteDone (s.withDisk { s.disk with dmaHi := v }))
  | outConCtrl {v} : RowEffect s (.outConCtrl v) (ioWriteDone (s.withCon { s.con with ctrl := v }))
  | outConData {v} : RowEffect s (.outConData v)
      (ioWriteDone ((s.withConOut (s.conOut ++ [v])).withCon { s.con with txData := v, tdre := true }))
  | inConData : RowEffect s .inConData (ioReadDone (conDataReceive s).con.rxData (conDataReceive s))

/-- A command's dispatch writes `last_cmd` and the latch, which `rowFrame` does not look at. -/
theorem operationFrame.runCommand {s : State} {f : State → State} {v : Byte}
    (h : operationFrame (setLastCmd s v) (f (setLastCmd s v))) : rowFrame s (runCommand v f s) := h.1

/-- An open of an existing file writes no store. -/
theorem runCommand_openClass_frame (kind : OpenKind) (hkind : kind ≠ .create) (v : Byte) (s : State) :
    rowFrame s (runCommand v (openClass kind) s) := by
  obtain ⟨f, hframe, hfiles⟩ := openClass_frame kind (setLastCmd s v)
  rw [hfiles hkind] at hframe
  exact operationFrame.runCommand hframe

theorem exec_effect {i : Instr} {s t : State} (hi : i.dispatches = false) (hnext : exec i s = .next t) :
    RowEffect s i t := by
  cases i with
  | ioRead | ioWrite | outDiskCmd | outDiskBlock => cases hi
  | memoryWrite a v => cases hnext; exact .memoryWrite _ (rowFrame_refl _)
  | blockRead => cases hnext; obtain ⟨m, hframe⟩ := blockRead_frame s; exact .blockRead m hframe.1
  | blockWrite => cases hnext; obtain ⟨f, hframe⟩ := blockWrite_frame s; exact .blockWrite f hframe.1
  | outDiskData v => cases hnext; obtain ⟨f, hframe⟩ := diskDataWrite_frame v s; exact .outDiskData f hframe.1
  | create =>
    cases hnext
    obtain ⟨f, hframe, -⟩ := openClass_frame .create (setLastCmd s s.cfg.cmdCreate)
    exact .create f hframe.1
  | outSeekLo v => cases hnext; exact .outSeekLo
  | outSeekMid v => cases hnext; exact .outSeekMid
  | outSeekHi v => cases hnext; exact .outSeekHi
  | outDmaLo v => cases hnext; exact .outDmaLo
  | outDmaHi v => cases hnext; exact .outDmaHi
  | outConCtrl v => cases hnext; exact .outConCtrl
  | outConData v => cases hnext; exact .outConData
  | inConData => cases hnext; exact .inConData
  | openRead => cases hnext; exact .quiet (runCommand_openClass_frame .openRead nofun _ s)
  | openAppend => cases hnext; exact .quiet (runCommand_openClass_frame .openAppend nofun _ s)
  | openReadwrite => cases hnext; exact .quiet (runCommand_openClass_frame .openReadwrite nofun _ s)
  | seekToStart => cases hnext; exact .quiet (operationFrame.runCommand (moveTo_frame _ _))
  | seek => cases hnext; exact .quiet (operationFrame.runCommand (moveTo_frame _ _))
  | close => cases hnext; exact .quiet (operationFrame.runCommand (closeSession_frame _))
  | listDirectory => cases hnext; exact .quiet (operationFrame.runCommand (listDirectory_frame _))
  | cmdReserved v => cases hnext; exact .quiet (operationFrame.runCommand (raiseError_frame _ _))
  | blkReserved v => cases hnext; exact .quiet (raiseBlockError_frame .proto s).1
  | outDiskFname v => cases hnext; exact .quiet (fnameWrite_frame v s).1
  | inDiskData => cases hnext; exact .quiet (diskDataRead_frame s).1
  | ioReadHold =>
    rcases hlatch : s.ioLatch with _ | b
    · cases (exec_ioReadHold_of_no_latch hlatch).symm.trans hnext
      exact .quiet (rowFrame_refl s)
    · cases (exec_ioReadHold_of_latch hlatch).symm.trans hnext
      split <;> exact .quiet (rowFrame_refl s)
  | memoryRead | idleMemNostrobe | idleNorequest | idleIoNostrobe | ioWriteHold | inDiskStatus | inDiskBlock | inConStatus
  | inUnmapped | outUnmapped => cases hnext; exact .quiet (rowFrame_refl s)

/-- An instruction has the effect of its leaf (R6). -/
theorem exec_effect_leaf {i : Instr} {s t : State} (hnext : exec i s = .next t) : RowEffect s (leaf s.cfg i) t :=
  exec_effect (leaf_not_dispatches s.cfg i) ((exec_leaf i s).trans hnext)

/-- A read of the console's data port takes the oldest byte of `con_in` or none, and writes neither memory, nor the disk
controller, nor the bytes sent (R112). -/
theorem conDataReceive_frame (s : State) :
    sameMemory s (conDataReceive s) ∧ (conDataReceive s).disk = s.disk ∧ (conDataReceive s).files = s.files
      ∧ (conDataReceive s).conOut = s.conOut
      ∧ ((conDataReceive s).conIn = s.conIn ∨ s.con.rxReady = true ∧ ∃ b, s.conIn = b :: (conDataReceive s).conIn) := by
  obtain ⟨-, h⟩ | ⟨b, rest, hready, hin, h⟩ | ⟨-, -, h⟩ := conDataReceive_cases s <;> rw [h]
  · exact ⟨fun _ => rfl, rfl, rfl, rfl, .inl rfl⟩
  · exact ⟨fun _ => rfl, rfl, rfl, rfl, .inr ⟨hready, b, hin⟩⟩
  · exact ⟨fun _ => rfl, rfl, rfl, rfl, .inl rfl⟩

end Sys2Proof.Machine

namespace Sys2Proof

open Machine in
/-- Settles O38: the dispatchers run the row they select. -/
theorem resolvingKeepsTheMeaning : Obligations.ResolvingKeepsTheMeaning := exec_resolve

open Machine in
/-- Settles O40, from the effects of the rows. -/
theorem onlyMemoryWriteAndBlockReadWriteMemory : Obligations.OnlyMemoryWriteAndBlockReadWriteMemory := by
  intro i s t hnext hblock hwrite
  have heffect := exec_effect_leaf hnext
  generalize leaf s.cfg i = j at heffect hblock hwrite
  cases heffect with
  | memoryWrite => exact absurd rfl (hwrite _ _)
  | blockRead => exact absurd rfl hblock
  | inConData => exact (conDataReceive_frame s).1
  | quiet hframe | create _ hframe | blockWrite _ hframe | outDiskData _ hframe => exact hframe.1
  | outSeekLo | outSeekMid | outSeekHi | outDmaLo | outDmaHi | outConCtrl | outConData => exact fun _ => rfl

open Machine in
/-- Settles O41, from the effects of the rows. -/
theorem onlyTheListedOperationsReachTheCollaborators : Obligations.OnlyTheListedOperationsReachTheCollaborators := by
  intro i s t hnext
  have heffect := exec_effect_leaf hnext
  generalize leaf s.cfg i = j at heffect
  cases heffect with
  | create _ hframe =>
    obtain ⟨-, ⟨-, hin, hout⟩, -⟩ := hframe
    exact ⟨fun _ => .inl rfl, fun hne => absurd hout hne, fun hne => absurd hin hne⟩
  | blockWrite _ hframe =>
    obtain ⟨-, ⟨-, hin, hout⟩, -⟩ := hframe
    exact ⟨fun _ => .inr (.inl rfl), fun hne => absurd hout hne, fun hne => absurd hin hne⟩
  | outDiskData _ hframe =>
    obtain ⟨-, ⟨-, hin, hout⟩, -⟩ := hframe
    exact ⟨fun _ => .inr (.inr ⟨_, rfl⟩), fun hne => absurd hout hne, fun hne => absurd hin hne⟩
  | quiet hframe | memoryWrite _ hframe | blockRead _ hframe =>
    obtain ⟨-, ⟨-, hin, hout⟩, hfiles, -⟩ := hframe
    exact ⟨fun hne => absurd hfiles hne, fun hne => absurd hout hne, fun hne => absurd hin hne⟩
  | outConData => exact ⟨fun hne => absurd rfl hne, fun _ => ⟨_, rfl, rfl⟩, fun hne => absurd rfl hne⟩
  | inConData =>
    obtain ⟨-, -, hfiles, hout, hin⟩ := conDataReceive_frame s
    refine ⟨fun hne => absurd hfiles hne, fun hne => absurd hout hne, fun hne => ?_⟩
    exact ⟨rfl, hin.resolve_left hne⟩
  | outSeekLo | outSeekMid | outSeekHi | outDmaLo | outDmaHi | outConCtrl =>
    exact ⟨fun hne => absurd rfl hne, fun hne => absurd rfl hne, fun hne => absurd rfl hne⟩

open Machine in
/-- Settles O42, from the effects of the rows. -/
theorem seekAndDmaPersist : Obligations.SeekAndDmaPersist := by
  intro i s t hnext
  have heffect := exec_effect_leaf hnext
  generalize leaf s.cfg i = j at heffect
  cases heffect with
  | outSeekLo => exact ⟨fun _ => ⟨_, .inl rfl⟩, fun hne => absurd rfl hne⟩
  | outSeekMid => exact ⟨fun _ => ⟨_, .inr (.inl rfl)⟩, fun hne => absurd rfl hne⟩
  | outSeekHi => exact ⟨fun _ => ⟨_, .inr (.inr rfl)⟩, fun hne => absurd rfl hne⟩
  | outDmaLo => exact ⟨fun hne => absurd rfl hne, fun _ => ⟨_, .inl rfl⟩⟩
  | outDmaHi => exact ⟨fun hne => absurd rfl hne, fun _ => ⟨_, .inr rfl⟩⟩
  | quiet hframe | memoryWrite _ hframe | blockRead _ hframe | create _ hframe | blockWrite _ hframe
  | outDiskData _ hframe =>
    obtain ⟨-, -, -, hseek, hdma⟩ := hframe
    exact ⟨fun hne => absurd hseek hne, fun hne => absurd hdma hne⟩
  | inConData =>
    have hdisk := conDataReceive_disk s
    exact ⟨fun hne => absurd (congrArg seekPosition hdisk) hne, fun hne => absurd (congrArg dmaAddress hdisk) hne⟩
  | outConCtrl | outConData => exact ⟨fun hne => absurd rfl hne, fun hne => absurd rfl hne⟩

end Sys2Proof

/-! The error bit (R134, R164, R165). The rows in both lists may do either; the rest set it, clear it, or leave it. -/

namespace Sys2Proof.Machine

/-- A row that leaves the error bit needs no entry in R134's table. -/
theorem error_untouched {s t : State} (h : t.disk.error = s.disk.error) {p q : Prop} :
    (s.disk.error = false → t.disk.error = true → p) ∧ (s.disk.error = true → t.disk.error = false → q) := by
  rw [h]
  cases s.disk.error <;> simp

/-- A row that only ever sets the error bit needs no entry among those that clear it. -/
theorem error_only_set {s t : State} (h : t.disk.error = s.disk.error ∨ t.disk.error = true) {p q : Prop} (hp : p) :
    (s.disk.error = false → t.disk.error = true → p) ∧ (s.disk.error = true → t.disk.error = false → q) := by
  refine ⟨fun _ _ => hp, fun ht hf => ?_⟩
  rcases h with h | h
  · cases ht.symm.trans (h.symm.trans hf)
  · cases h.symm.trans hf

/-- A row that only ever clears the error bit needs no entry among those that set it. -/
theorem error_only_cleared {s t : State} (h : t.disk.error = s.disk.error ∨ t.disk.error = false) {p q : Prop} (hq : q) :
    (s.disk.error = false → t.disk.error = true → p) ∧ (s.disk.error = true → t.disk.error = false → q) := by
  refine ⟨fun hf ht => ?_, fun _ _ => hq⟩
  rcases h with h | h
  · cases hf.symm.trans (h.symm.trans ht)
  · cases h.symm.trans ht

theorem dirDataRead_error (k : Cursor) (s : State) :
    (dirDataRead k s).2.disk.error = s.disk.error ∨ (dirDataRead k s).2.disk.error = false := by
  obtain ⟨b, l, -, h⟩ | ⟨e, l, -, -, h⟩ | ⟨-, -, h⟩ := dirDataRead_cases k s <;> rw [h]
  · exact .inl rfl
  · exact .inl rfl
  · exact .inr rfl

theorem fileDataRead_error (s : State) :
    (fileDataRead s).2.disk.error = s.disk.error ∨ (fileDataRead s).2.disk.error = true := by
  obtain ⟨f, -, -, -, h⟩ | ⟨f, -, -, -, h⟩ | ⟨-, h⟩ := fileDataRead_cases s <;> rw [h]
  · exact .inr rfl
  · exact .inl rfl
  · exact .inl rfl

theorem diskDataWrite_error (v : Byte) (s : State) :
    (diskDataWrite v s).disk.error = s.disk.error ∨ (diskDataWrite v s).disk.error = true := by
  obtain ⟨-, h⟩ | ⟨f, -, -, h⟩ | ⟨f, -, -, -, h⟩ := diskDataWrite_cases v s <;> rw [h]
  · exact .inl rfl
  · exact .inr rfl
  · exact .inl rfl

theorem fnameWrite_error (v : Byte) (s : State) : (fnameWrite v s).disk.error = s.disk.error := by
  obtain ⟨-, h⟩ | ⟨-, -, h⟩ | ⟨-, -, -, h⟩ | ⟨-, -, -, h⟩ := fnameWrite_cases v s <;> rw [h] <;> rfl

/-- R134 for the instructions a tick can be decoded to. -/
theorem exec_error {i : Instr} {s t : State} (hi : i.dispatches = false) (hnext : exec i s = .next t) :
    (s.disk.error = false → t.disk.error = true → maySetError s i = true)
      ∧ (s.disk.error = true → t.disk.error = false → mayClearError s i = true) := by
  cases i with
  | ioRead | ioWrite | outDiskCmd | outDiskBlock => cases hi
  | openRead | create | openAppend | seekToStart | listDirectory | openReadwrite | seek | blockRead | blockWrite =>
    exact ⟨fun _ _ => rfl, fun _ _ => rfl⟩
  | inDiskData =>
    cases hnext
    obtain ⟨k, hdir, h⟩ | ⟨hdir, h⟩ := diskDataRead_cases s
    · exact error_only_cleared (h ▸ dirDataRead_error k s) (by rw [mayClearError, hdir]; rfl)
    · exact error_only_set (h ▸ fileDataRead_error s) (by rw [maySetError, hdir]; rfl)
  | outDiskData v => cases hnext; exact error_only_set (diskDataWrite_error v s) rfl
  | cmdReserved | blkReserved => cases hnext; exact error_only_set (.inr rfl) rfl
  | close => cases hnext; exact error_only_cleared (.inr rfl) rfl
  | outDiskFname v => cases hnext; exact error_untouched (fnameWrite_error v s)
  | inConData => cases hnext; exact error_untouched (congrArg DiskSession.error (conDataReceive_disk s))
  | ioReadHold =>
    rcases hlatch : s.ioLatch with _ | b
    · cases (exec_ioReadHold_of_no_latch hlatch).symm.trans hnext
      exact error_untouched rfl
    · cases (exec_ioReadHold_of_latch hlatch).symm.trans hnext
      split <;> exact error_untouched rfl
  | memoryRead | memoryWrite | idleMemNostrobe | idleNorequest | idleIoNostrobe | ioWriteHold | inDiskStatus | inDiskBlock
  | inConStatus | inUnmapped | outUnmapped | outConCtrl | outConData | outSeekLo | outSeekMid | outSeekHi | outDmaLo
  | outDmaHi => cases hnext; exact error_untouched rfl

/-! The dispatchers (R96, R97, R131, R132). -/

theorem portOf_toNat (a : Addr) : (portOf a).toNat = a.toNat % 256 := by simp [portOf]

/-- The port is the low byte of the address (R72). -/
theorem portOf_eq_of_mod_eq {a a' : Addr} (h : a'.toNat % 256 = a.toNat % 256) : portOf a' = portOf a :=
  BitVec.eq_of_toNat_eq (by rw [portOf_toNat, portOf_toNat, h])

/-- Every read role ends as an IoRead (R96). -/
theorem exec_portIn_ends (r : PortIn) (p : Port) (s : State) : ∃ b u, exec (r.toInstr p) s = .next (ioReadDone b u) := by
  cases r <;> exact ⟨_, _, rfl⟩

/-- No read role writes memory (R96). -/
theorem exec_portIn_sameMemory {r : PortIn} {p : Port} {s t : State} (hnext : exec (r.toInstr p) s = .next t) :
    sameMemory s t := by
  cases r with
  | conData => cases hnext; exact (conDataReceive_frame s).1
  | diskData => cases hnext; exact (diskDataRead_frame s).1.1
  | conStatus | diskStatus | diskBlock | unmapped => cases hnext; exact fun _ => rfl

/-- A byte that selects a command is its code (R74). -/
theorem code_of_decodeCmd {c : Params} {v w : Byte} (h : (decodeCmd c v).code? c = some w) : w = v := by
  unfold decodeCmd at h
  split_ifs at h <;> simp_all [Cmd.code?]

/-- A command's service records the byte (R131), whatever becomes of the command. -/
theorem lastCmd_of_exec_cmd {k : Cmd} {v : Byte} {s t : State} (hk : ∀ w, k.code? s.cfg = some w → w = v)
    (hnext : exec (k.toInstr v) s = .next t) : t.disk.lastCmd = v := by
  have hopen (kind : OpenKind) (w : Byte) : (runCommand w (openClass kind) s).disk.lastCmd = w := by
    obtain ⟨f, ⟨-, hcmd⟩, -⟩ := openClass_frame kind (setLastCmd s w)
    exact hcmd
  have hmove (p : Nat) (w : Byte) : (runCommand w (moveTo p) s).disk.lastCmd = w := (moveTo_frame p (setLastCmd s w)).2
  cases k with
  | openRead => cases hnext; exact (hopen _ _).trans (hk _ rfl)
  | create => cases hnext; exact (hopen _ _).trans (hk _ rfl)
  | openAppend => cases hnext; exact (hopen _ _).trans (hk _ rfl)
  | openReadwrite => cases hnext; exact (hopen _ _).trans (hk _ rfl)
  | seekToStart => cases hnext; exact (hmove _ _).trans (hk _ rfl)
  | seek => cases hnext; exact (hmove _ _).trans (hk _ rfl)
  | close => cases hnext; exact hk _ rfl
  | listDirectory => cases hnext; exact (listDirectory_frame (setLastCmd s _)).2.trans (hk _ rfl)
  | reserved => cases hnext; rfl

/-- No command writes the block result (R131). -/
theorem blkResult_of_exec_cmd {k : Cmd} {v : Byte} {s t : State} (hnext : exec (k.toInstr v) s = .next t) :
    t.disk.blkResult = s.disk.blkResult :=
  exec_keeps_blkResult (k.toInstr_not_dispatches v) (by cases k <;> simp [writesBlkResult, Cmd.toInstr]) hnext

/-- No block row writes `last_cmd` (R132). -/
theorem lastCmd_of_exec_blk {k : Blk} {v : Byte} {s t : State} (hnext : exec (k.toInstr v) s = .next t) :
    t.disk.lastCmd = s.disk.lastCmd := by
  cases k with
  | read => cases hnext; obtain ⟨m, -, hcmd⟩ := blockRead_frame s; exact hcmd
  | write => cases hnext; obtain ⟨f, -, hcmd⟩ := blockWrite_frame s; exact hcmd
  | reserved => cases hnext; rfl

/-- A write role drives nothing and clears the latch (R97). -/
theorem drivesNothing_of_ends {s u : State} (h : silentFrame s (ioWriteDone u)) : drivesNothing s (ioWriteDone u) :=
  ⟨h.2, rfl⟩

end Sys2Proof.Machine

namespace Sys2Proof

open Machine in
/-- Settles O39: what an instruction does to the bit its leaf does. -/
theorem onlyTheListedOperationsTouchTheErrorBit : Obligations.OnlyTheListedOperationsTouchTheErrorBit := fun i s _ hnext =>
  exec_error (leaf_not_dispatches s.cfg i) ((exec_leaf i s).trans hnext)

open Machine in
/-- Settles O5: the dispatcher of R96 looks at the port only, and every row it selects ends as an IoRead. -/
theorem ioReadRunsItsPortOperation : Obligations.IoReadRunsItsPortOperation := by
  intro a s
  obtain ⟨b, u, hrow⟩ := exec_portIn_ends (decodePortIn s.cfg (portOf a)) (portOf a) s
  obtain ⟨t, hnext, hframe⟩ := exec_portIn_frame (decodePortIn s.cfg (portOf a)) (portOf a) s
  cases hrow.symm.trans hnext
  refine ⟨_, b, (exec_ioRead a s).trans hrow, hrow, ⟨rfl, rfl⟩, hframe, exec_portIn_sameMemory hrow, portOf_toNat a,
    fun a' ha' => ?_⟩
  rw [exec_ioRead, portOf_eq_of_mod_eq ha', hrow]

open Machine in
/-- Settles O6: as for the reads, with the dispatcher of R97. -/
theorem ioWriteRunsItsPortOperation : Obligations.IoWriteRunsItsPortOperation := by
  intro a v s
  obtain ⟨u, hrow⟩ := exec_portOut_ends (decodePortOut s.cfg (portOf a)) (portOf a) v s
  obtain ⟨t, hnext, hframe⟩ := exec_portOut_silent (decodePortOut s.cfg (portOf a)) (portOf a) v s
  cases hrow.symm.trans hnext
  refine ⟨_, (exec_ioWrite a v s).trans hrow, hrow, drivesNothing_of_ends hframe, hframe.1, portOf_toNat a,
    fun a' ha' => ?_⟩
  rw [exec_ioWrite, portOf_eq_of_mod_eq ha', hrow]

open Machine in
/-- Settles O20: the dispatcher of R131 runs the row the byte selects, and every command row records its code. -/
theorem commandWriteRunsItsCommand : Obligations.CommandWriteRunsItsCommand := by
  intro v s
  obtain ⟨u, hrow⟩ := exec_cmd_ends (decodeCmd s.cfg v) v s
  obtain ⟨t, hnext, hframe⟩ := exec_cmd_silent (decodeCmd s.cfg v) v s
  cases hrow.symm.trans hnext
  exact ⟨_, (exec_outDiskCmd v s).trans hrow, hrow, lastCmd_of_exec_cmd (fun _ hw => code_of_decodeCmd hw) hrow,
    blkResult_of_exec_cmd hrow, drivesNothing_of_ends hframe, hframe.1⟩

open Machine in
/-- Settles O21: the dispatcher of R132 runs the row the byte selects. -/
theorem blockWritePortRunsItsOperation : Obligations.BlockWritePortRunsItsOperation := by
  intro v s
  obtain ⟨u, hrow⟩ := exec_blk_ends (decodeBlk v) v s
  obtain ⟨t, hnext, hframe⟩ := exec_blk_silent (decodeBlk v) v s
  cases hrow.symm.trans hnext
  refine ⟨_, (exec_outDiskBlock v s).trans hrow, ?_, ?_, ?_, lastCmd_of_exec_blk hrow, drivesNothing_of_ends hframe,
    hframe.1⟩
  · rintro rfl
    exact hrow
  · rintro rfl
    exact hrow
  · intro h0 h1
    rwa [(decodeBlk_eq_reserved_iff v).2 ⟨h0, h1⟩] at hrow

end Sys2Proof

/-! The tick and the boot stage (40_bus_cycles.md R90 to R93, R99, R168; 70_reset_and_hazards.md R180 to R184). -/

namespace Sys2Proof.Machine

/-! Receive-ready: step (a) sets it, and of all services only a console data read writes it. -/

theorem inputAvailable_iff (s : State) : inputAvailable s = true ↔ s.conIn ≠ [] := by
  simp [inputAvailable]

theorem beginTick_rxReady_iff (s : State) :
    (beginTick (takeInput s)).con.rxReady = true ↔ s.conIn ++ (nextInput s).arriving ≠ [] :=
  inputAvailable_iff (takeInput s)

theorem beginTick_intLine_iff (s : State) :
    (beginTick (takeInput s)).intLine = true ↔
      (s.conIn ++ (nextInput s).arriving ≠ [] ∧ s.con.ctrl.getLsbD s.cfg.cctlRie.val = true) :=
  (Bool.and_eq_true_iff).trans (and_congr_left' (inputAvailable_iff (takeInput s)))

theorem conDataReceive_rxReady (s : State) : (conDataReceive s).con.rxReady = false := by
  obtain ⟨hready, h⟩ | ⟨b, l, -, -, h⟩ | ⟨-, -, h⟩ := conDataReceive_cases s <;> rw [h]
  · exact hready
  · rfl
  · rfl

/-- R112, R113: no other row but the console data read writes receive-ready. -/
theorem RowEffect.rxReady {s t : State} {i : Instr} (h : RowEffect s i t) (hi : i ≠ .inConData) :
    t.con.rxReady = s.con.rxReady := by
  cases h with
  | inConData => exact absurd rfl hi
  | quiet hframe | memoryWrite _ hframe | blockRead _ hframe | create _ hframe | blockWrite _ hframe
  | outDiskData _ hframe =>
    obtain ⟨-, ⟨hcon, -⟩, -⟩ := hframe
    exact congrArg Console.rxReady hcon
  | outSeekLo | outSeekMid | outSeekHi | outDmaLo | outDmaHi | outConCtrl | outConData => rfl

theorem rxReady_of_exec_inConData {s t : State} (hnext : exec .inConData s = .next t) : t.con.rxReady = false := by
  cases hnext
  exact conDataReceive_rxReady s

/-- R90: a tick is the service of the selected row between steps (a), (b) and step (f). -/
theorem step_of_exec {s t : State} (hrun : s.phase = .run) (hreset : (nextInput s).systemReset = false)
    (hexec : exec (decodeBus s.prevIorq (nextInput s).sample) (beginTick (takeInput s)) = .next t) :
    step s = .next (endTick (nextInput s).sample t) := by
  rw [step_of_run hrun hreset, hexec, finishTick]

/-- The service of a tick goes on, and keeps the frame of every service (R101). -/
theorem exec_decodeBus (s : State) (S : Sample) : ∃ t, exec (decodeBus s.prevIorq S) s = .next t ∧ serviceFrame s t := by
  obtain ⟨t, hnext, hframe, -⟩ := exec_busRow (classOf_decodeBus s.ioLatch s.prevIorq S)
  exact ⟨t, hnext, hframe⟩

/-! A request still asserted (R93, R99). -/

/-- What a request held from the tick before selects: a hold, or no strobe. -/
theorem decodeBus_held {S : Sample} (hmreq : S.mreq = false) (hiorq : S.iorq = true) :
    decodeBus true S = .ioReadHold ∨ decodeBus true S = .ioWriteHold ∨ decodeBus true S = .idleIoNostrobe := by
  obtain ⟨mreq, iorq, rd, wr, a, d⟩ := S
  subst hmreq hiorq
  match rd, wr with
  | true, wr => exact .inl (decodeBus_ioReadHold wr a d)
  | false, true => exact .inr (.inl (decodeBus_ioWriteHold a d))
  | false, false => exact .inr (.inr (decodeBus_idleIoNostrobe true a d))

/-- A held read drives the latched byte or is Idle; devices and memory are left alone (R99). -/
theorem exec_ioReadHold_devices (s : State) :
    ∃ t, exec .ioReadHold s = .next t ∧ serviceFrame s t ∧ sameMemory s t ∧ sameDevices s t := by
  rcases hlatch : s.ioLatch with _ | b
  · exact ⟨_, exec_ioReadHold_of_no_latch hlatch, serviceFrame_refl s, fun _ => rfl, ⟨rfl, rfl, rfl⟩, rfl, rfl⟩
  · refine ⟨_, exec_ioReadHold_of_latch hlatch, ?_⟩
    split <;> exact ⟨serviceFrame_refl s, fun _ => rfl, ⟨rfl, rfl, rfl⟩, rfl, rfl⟩

/-- The rows of a held request touch no device and no memory. -/
theorem exec_held_devices {i : Instr} (hi : i = .ioReadHold ∨ i = .ioWriteHold ∨ i = .idleIoNostrobe) (s : State) :
    ∃ t, exec i s = .next t ∧ sameMemory s t ∧ sameDevices s t := by
  obtain rfl | rfl | rfl := hi
  · obtain ⟨t, hnext, -, hmem, hdev⟩ := exec_ioReadHold_devices s
    exact ⟨t, hnext, hmem, hdev⟩
  · exact ⟨_, rfl, fun _ => rfl, ⟨rfl, rfl, rfl⟩, rfl, rfl⟩
  · exact ⟨_, rfl, fun _ => rfl, ⟨rfl, rfl, rfl⟩, rfl, rfl⟩

/-! The boot stage (R180, R181): one outcome when it fails, one of two when it finds an image. -/

theorem bootStage_of_failure {e : Input} {s : State}
    (hfail : e.fsInitOk = false ∨ s.files.find? s.cfg.firmwareName = none ∨ s.draws.fsFault = true) :
    bootStage e s = .next (haltBoot (bootCreate s)) := by
  obtain ⟨-, hnext⟩ | ⟨hinit, hfault, image, hfind, -⟩ := bootStage_cases e s
  · exact hnext
  · simp [hinit, hfault, hfind] at hfail

theorem bootStage_of_image {e : Input} {s : State} {image : List Byte} (hinit : e.fsInitOk = true)
    (hfault : s.draws.fsFault = false) (hfind : s.files.find? s.cfg.firmwareName = some image) :
    (Config.memSize < image.length ∧ bootStage e s = .refused .imageTooLong)
      ∨ (image.length ≤ Config.memSize ∧ bootStage e s = .next (release (memWriteMany (bootCreate s) 0 image))) := by
  obtain ⟨hfail, -⟩ | ⟨-, -, image', hfind', hboot⟩ := bootStage_cases e s
  · simp [hinit, hfault, hfind] at hfail
  · cases hfind.symm.trans hfind'
    exact hboot

theorem memRead_image {image : List Byte} (hlen : image.length ≤ Config.memSize) (s : State) {i : Nat}
    (hi : i < image.length) : memRead (memWriteMany s 0 image) i = image.getD i 0#8 := by
  have hhit := memRead_memWriteMany_hit s (a := 0) hlen hi
  rw [Nat.zero_add] at hhit
  rw [hhit, List.getD_eq_getElem _ _ hi]

theorem memRead_above_image {image : List Byte} (s : State) {a : Nat} (hle : image.length ≤ a) (ha : a < Config.memSize) :
    memRead (memWriteMany s 0 image) a = memRead s a :=
  memRead_memWriteMany_miss s fun j hj => by
    rw [Nat.zero_add, Nat.mod_eq_of_lt ha, Nat.mod_eq_of_lt (by omega)]
    omega

end Sys2Proof.Machine

namespace Sys2Proof

open Machine in
/-- Settles O59: each field after the input is taken and steps (a), (b) are done. -/
theorem serviceStartsFromTheLiveCondition : Obligations.ServiceStartsFromTheLiveCondition := fun s =>
  ⟨beginTick_rxReady_iff s, beginTick_intLine_iff s, rfl, rfl, rfl, rfl, rfl, rfl, rfl, rfl, rfl, fun _ => rfl, rfl, rfl,
    rfl, rfl⟩

open Machine in
/-- Settles O43: the tick's definition in phase `Run`. -/
theorem stepServicesTheSelectedRow : Obligations.StepServicesTheSelectedRow :=
  fun _ hrun hreset _ hexec => step_of_exec hrun hreset hexec

open Machine in
/-- Settles O44: the presented tick decodes to the leaf of the instruction (O57), and both do what their leaf does. -/
theorem stepRunsThePresentedInstruction : Obligations.StepRunsThePresentedInstruction := by
  rintro s i e rest prev hv hwf hrun hinputs hreset hpresent rfl
  have hinput : nextInput s = e := by rw [nextInput, hinputs]
  obtain ⟨prev, S, hword, hdecode⟩ := presentedTickDecodesToTheInstruction s.cfg i hv hwf
  cases hpresent.symm.trans hword
  subst hinput
  obtain ⟨t, hexec, -⟩ := exec_decodeBus (beginTick (takeInput s)) (nextInput s).sample
  refine ⟨t, ?_, step_of_exec hrun hreset hexec⟩
  calc exec i (beginTick (takeInput s))
      = exec (leaf s.cfg i) (beginTick (takeInput s)) := (exec_leaf i (beginTick (takeInput s))).symm
    _ = exec (leaf s.cfg (decodeBus s.prevIorq (nextInput s).sample)) (beginTick (takeInput s)) := by rw [← hdecode]; rfl
    _ = exec (decodeBus s.prevIorq (nextInput s).sample) (beginTick (takeInput s)) := exec_leaf _ (beginTick (takeInput s))
    _ = .next t := hexec

open Machine in
/-- Settles O49: no service writes the interrupt line, and only the console data read writes receive-ready after step (a). -/
theorem interruptLineTracksTheLiveCondition : Obligations.InterruptLineTracksTheLiveCondition := by
  intro s hrun hreset
  obtain ⟨t, hexec, -, -, -, -, hint, -⟩ := exec_decodeBus (beginTick (takeInput s)) (nextInput s).sample
  refine ⟨_, step_of_exec hrun hreset hexec, ?_, fun hother => ?_, fun hread => ?_⟩
  · exact (Bool.coe_iff_coe.2 hint).trans (beginTick_intLine_iff s)
  · have hready : t.con.rxReady = (beginTick (takeInput s)).con.rxReady := (exec_effect_leaf hexec).rxReady hother
    exact (Bool.coe_iff_coe.2 hready).trans (beginTick_rxReady_iff s)
  · have hleaf : exec (leaf s.cfg (decodeBus s.prevIorq (nextInput s).sample)) (beginTick (takeInput s)) = .next t :=
      (exec_leaf _ (beginTick (takeInput s))).trans hexec
    rw [hread] at hleaf
    have hready : t.con.rxReady = false := rxReady_of_exec_inConData hleaf
    exact hready

open Machine in
/-- Settles O50: a held request selects a row that touches no device. -/
theorem heldRequestIsNotServicedAgain : Obligations.HeldRequestIsNotServicedAgain := by
  intro s hrun hreset hprev hmreq hiorq
  obtain ⟨t, hexec, hmem, ⟨hcon, hin, hout⟩, hdisk, hfiles⟩ :=
    exec_held_devices (decodeBus_held hmreq hiorq) (beginTick (takeInput s))
  rw [← hprev] at hexec
  exact ⟨_, step_of_exec hrun hreset hexec, hdisk, hfiles, hmem, hout, hin, hcon, hiorq⟩

open Machine in
/-- Settles O51: an image that fits is copied to address 0 (R53), and the processor is released. -/
theorem bootLoadsTheImageAndReleases : Obligations.BootLoadsTheImageAndReleases := by
  intro s image hboot hreset hinit hfault hfind hlen
  rw [step_of_boot hboot hreset]
  obtain ⟨hlong, -⟩ | ⟨-, hnext⟩ := bootStage_of_image (s := takeInput s) hinit hfault hfind
  · omega
  · exact ⟨_, hnext, fun i hi => memRead_image hlen (bootCreate (takeInput s)) hi,
      fun a hle ha => memRead_above_image (bootCreate (takeInput s)) hle ha,
      rfl, rfl, rfl, rfl, rfl, rfl, rfl, rfl, rfl, rfl, rfl, rfl, rfl⟩

open Machine in
/-- Settles O52: the other outcomes of the boot stage, and the step in `Halt`. -/
theorem failedBootHaltsForGood : Obligations.FailedBootHaltsForGood := by
  refine ⟨fun s hboot hreset hfail => ?_, fun s hhalt hreset => step_of_halt hhalt hreset,
    fun s image hboot hreset hinit hfault hfind hlong => ?_⟩
  · rw [step_of_boot hboot hreset]
    exact ⟨_, bootStage_of_failure (s := takeInput s) hfail, rfl, rfl, rfl, rfl, rfl⟩
  · rw [step_of_boot hboot hreset]
    obtain ⟨-, hnext⟩ | ⟨hshort, -⟩ := bootStage_of_image (s := takeInput s) hinit hfault hfind
    · exact hnext
    · omega

open Machine in
/-- Settles O53: with no byte written since the new power-on, a read gives the free byte. -/
theorem fullResetIsANewPowerOn : Obligations.FullResetIsANewPowerOn := by
  intro s hreset
  refine ⟨_, step_of_systemReset hreset, rfl, rfl, rfl, rfl, rfl, rfl, rfl, rfl, rfl, fun a ha => ?_, rfl, rfl, rfl, rfl⟩
  have hread : memRead (fullReset (takeInput s)) a = Config.powerOnByte (s.powerOns + 1) (a % Config.memSize) := rfl
  rw [hread, Nat.mod_eq_of_lt ha]

end Sys2Proof

/-! The rows of the BUS table, the console and the ports of the disk controller: what each leaves, field by field. -/

namespace Sys2Proof.Machine

theorem addr_lt_memSize (a : Addr) : a.toNat < Config.memSize := a.isLt

/-! The status bytes (R76, R78, R111, R120): the bits of a byte that packs flags. -/

theorem getLsbD_flagBit (pos : Fin 8) (b : Bool) {j : Nat} (hj : j < 8) :
    (flagBit pos b).getLsbD j = (b && decide (j = pos.val)) := by
  cases b with
  | false => simp [flagBit]
  | true =>
    simp only [flagBit, if_true, BitVec.getLsbD_shiftLeft, BitVec.getLsbD_one, Bool.true_and, hj, decide_true]
    by_cases h : j = pos.val
    · simp [h]
    · have : j < pos.val ∨ j - pos.val ≠ 0 := by omega
      rcases this with hlt | hne <;> simp [*]

theorem getLsbD_conStatusByte (s : State) {j : Nat} (hj : j < 8) :
    (conStatusByte s).getLsbD j =
      (s.cfg.cstatFixed.getLsbD j && !(decide (j = s.cfg.cstatRdrf.val) || decide (j = s.cfg.cstatTdre.val))
        || s.con.tdre && decide (j = s.cfg.cstatTdre.val) || s.con.rxReady && decide (j = s.cfg.cstatRdrf.val)) := by
  simp only [conStatusByte, BitVec.getLsbD_or, BitVec.getLsbD_and, BitVec.getLsbD_not, getLsbD_flagBit _ _ hj, hj,
    decide_true, Bool.true_and]

theorem getLsbD_diskStatusByte (s : State) {j : Nat} (hj : j < 8) :
    (diskStatusByte s).getLsbD j =
      (dataAvailable s && decide (j = s.cfg.dstatData.val) || s.disk.error && decide (j = s.cfg.dstatError.val)
        || !s.disk.error && decide (j = s.cfg.dstatReady.val)) := by
  simp only [diskStatusByte, ready, BitVec.getLsbD_or, getLsbD_flagBit _ _ hj]

/-- The readable modes (R32). -/
theorem AccessMode.readable_iff_r_or_rw (m : AccessMode) : m.readable = true ↔ m = .r ∨ m = .rw := by
  cases m <;> simp [AccessMode.readable]

theorem handleHasData_iff (s : State) (h : Handle) :
    handleHasData s h = true ↔ (h.mode = .r ∨ h.mode = .rw) ∧ h.pos < fsLen s h.name := by
  simp [handleHasData, AccessMode.readable_iff_r_or_rw]

/-- R37, D27. -/
theorem dataAvailable_iff (s : State) :
    dataAvailable s = true ↔ (s.disk.dir ≠ none ∨
      ∃ h, s.disk.file = some h ∧ (h.mode = .r ∨ h.mode = .rw) ∧ h.pos < fsLen s h.name) := by
  simp only [dataAvailable, Bool.or_eq_true, Option.isSome_iff_ne_none, Option.any_eq_true, handleHasData_iff]

/-! An instruction whose service is a function of the state, with what a read leaves. -/

/-- A read that only drives and latches a byte touches no device and no memory (R96). -/
theorem ioReadDone_frames (b : Byte) (s : State) :
    drives (ioReadDone b s) b ∧ serviceFrame s (ioReadDone b s) ∧ sameMemory s (ioReadDone b s)
      ∧ sameDevices s (ioReadDone b s) :=
  ⟨⟨rfl, rfl⟩, serviceFrame_refl s, fun _ => rfl, ⟨rfl, rfl, rfl⟩, rfl, rfl⟩

/-- A console data read whose registers are known. -/
theorem exec_inConData_of_eq {s u : State} (h : conDataReceive s = u) :
    exec .inConData s = .next (ioReadDone u.con.rxData u) := by
  subst h
  rfl

theorem exec_inDiskData (s : State) : exec .inDiskData s = .next (ioReadDone (diskDataRead s).1 (diskDataRead s).2) := rfl

theorem exec_outDiskData (v : Byte) (s : State) : exec (.outDiskData v) s = .next (ioWriteDone (diskDataWrite v s)) := rfl

theorem exec_outDiskFname (v : Byte) (s : State) : exec (.outDiskFname v) s = .next (ioWriteDone (fnameWrite v s)) := rfl

/-- A data read whose byte and session are known. -/
theorem exec_inDiskData_of_eq {s : State} {b : Byte} {d : DiskSession} (h : diskDataRead s = (b, s.withDisk d)) :
    ∃ t, exec .inDiskData s = .next t ∧ drives t b ∧ t.disk = d ∧ t.files = s.files ∧ serviceFrame s t ∧ sameMemory s t
      ∧ sameConsole s t := by
  refine ⟨_, exec_inDiskData s, ?_⟩
  rw [h]
  exact ⟨⟨rfl, rfl⟩, rfl, rfl, serviceFrame_refl s, fun _ => rfl, rfl, rfl, rfl⟩

theorem diskDataRead_of_dir {s : State} {k : Cursor} (h : s.disk.dir = some k) : diskDataRead s = dirDataRead k s := by
  rw [diskDataRead, h]

theorem diskDataRead_of_no_dir {s : State} (h : s.disk.dir = none) : diskDataRead s = fileDataRead s := by
  rw [diskDataRead, h]

/-! The outcomes of a read and of a write of the file, by their conditions (R128, R129). -/

theorem fileDataRead_of_data {s : State} {h : Handle} (hfile : s.disk.file = some h) (hdata : handleHasData s h = true)
    (hok : s.draws.fsFault = false) :
    fileDataRead s =
      ((fsContents s h.name).getD h.pos 0#8, s.withDisk { s.disk with file := some { h with pos := h.pos + 1 } }) := by
  simp [fileDataRead, hfile, hdata, hok]

theorem fileDataRead_of_fault {s : State} {h : Handle} (hfile : s.disk.file = some h) (hdata : handleHasData s h = true)
    (hfault : s.draws.fsFault = true) :
    fileDataRead s = (s.cfg.diskDataEmpty, s.withDisk { s.disk with error := true }) := by
  simp [fileDataRead, hfile, hdata, hfault]

theorem fileDataRead_of_no_data {s : State} (hempty : ∀ h, s.disk.file = some h → handleHasData s h = false) :
    fileDataRead s = (s.cfg.diskDataEmpty, s) := by
  unfold fileDataRead
  rcases hfile : s.disk.file with _ | h
  · rfl
  · simp [hempty h hfile]

theorem AccessMode.refused_iff {strict : Bool} {m : AccessMode} :
    (strict && !m.writable) = true ↔ strict = true ∧ m = .r := by
  cases m <;> simp [AccessMode.writable]

theorem diskDataWrite_of_handle {v : Byte} {s : State} {h : Handle} (hfile : s.disk.file = some h)
    (hmode : s.cfg.modeStrict = true → h.mode ≠ .r) (hok : s.draws.fsFault = false) :
    diskDataWrite v s =
      (fsWrite s h.name h.pos [v]).withDisk { s.disk with file := some { h with pos := h.pos + 1 } } := by
  have hallowed : ¬ (s.cfg.modeStrict && !h.mode.writable) = true := fun hr =>
    hmode (AccessMode.refused_iff.1 hr).1 (AccessMode.refused_iff.1 hr).2
  simp [diskDataWrite, hfile, hallowed, hok]

theorem diskDataWrite_of_error {v : Byte} {s : State} {h : Handle} (hfile : s.disk.file = some h)
    (herr : (s.cfg.modeStrict = true ∧ h.mode = .r) ∨ s.draws.fsFault = true) :
    diskDataWrite v s = s.withDisk { s.disk with error := true } := by
  rcases herr with hrefused | hfault
  · simp [diskDataWrite, hfile, AccessMode.refused_iff.2 hrefused]
  · simp [diskDataWrite, hfile, hfault]

theorem diskDataWrite_of_no_file {v : Byte} {s : State} (hnone : s.disk.file = none) : diskDataWrite v s = s := by
  simp [diskDataWrite, hnone]

/-- A service that writes the DiskSession and the store and ends its IoWrite. -/
theorem storeWrite_of_ends {i : Instr} {s u : State} {f : Files} {d : DiskSession}
    (h : exec i s = .next (ioWriteDone u)) (hu : u = (s.withFiles f).withDisk d) :
    ∃ t, exec i s = .next t ∧ t.files = f ∧ t.disk = d ∧ diskWriteFrame s t := by
  subst hu
  exact ⟨_, h, rfl, rfl, serviceFrame_refl s, ⟨rfl, rfl⟩, fun _ => rfl, rfl, rfl, rfl⟩

/-- A service that writes the DiskSession alone and ends its IoWrite. -/
theorem diskWrite_of_ends {i : Instr} {s u : State} {d : DiskSession} (h : exec i s = .next (ioWriteDone u))
    (hu : u = s.withDisk d) : ∃ t, exec i s = .next t ∧ t.disk = d ∧ t.files = s.files ∧ diskWriteFrame s t :=
  diskWrite_of_exec (hu ▸ h)

/-- A byte of a file inside it (R128). -/
theorem fsContents_getElem?_of_lt {s : State} {n : Name} {i : Nat} (h : i < fsLen s n) :
    (fsContents s n)[i]? = some ((fsContents s n).getD i 0#8) := by
  have hi : i < (fsContents s n).length := h
  rw [List.getElem?_eq_getElem hi, List.getD_eq_getElem _ _ hi]

end Sys2Proof.Machine

namespace Sys2Proof

open Machine in
/-- Settles O1: the service writes the data drive and the latch alone. -/
theorem memoryReadDrivesTheByte : Obligations.MemoryReadDrivesTheByte := fun _ s =>
  ⟨_, rfl, rfl, rfl, serviceFrame_refl s, fun _ => rfl, ⟨rfl, rfl, rfl⟩, rfl, rfl⟩

open Machine in
/-- Settles O2: a write and a read of the Memory Array (R51). -/
theorem memoryWriteStoresOneByte : Obligations.MemoryWriteStoresOneByte := by
  intro a v s
  have hread (b : Nat) : memRead ((memWrite s a.toNat v).withLatch none) b =
      if a.toNat = b % Config.memSize then v else memRead s b := by
    rw [memRead_withLatch, memRead_memWrite, Nat.mod_eq_of_lt (addr_lt_memSize a)]
  refine ⟨_, rfl, ?_, fun b hb => ?_, ⟨rfl, rfl⟩, serviceFrame_refl s, ⟨rfl, rfl, rfl⟩, rfl, rfl⟩
  · rw [hread, if_pos (Nat.mod_eq_of_lt (addr_lt_memSize a)).symm]
  · rw [hread, if_neg (Ne.symm hb)]

open Machine in
/-- Settles O3: the four rows have one service (R98, R99). -/
theorem idleAndWriteHoldOnlyClearTheLatch : Obligations.IdleAndWriteHoldOnlyClearTheLatch := by
  intro i hi s
  have hexec : exec i s = .next (s.withLatch none) := by
    simp only [List.mem_cons, List.not_mem_nil, or_false] at hi
    obtain rfl | rfl | rfl | rfl := hi <;> rfl
  exact ⟨_, hexec, ⟨rfl, rfl⟩, serviceFrame_refl s, fun _ => rfl, ⟨rfl, rfl, rfl⟩, rfl, rfl⟩

open Machine in
/-- Settles O4: with and without a latched byte, and with the parameter either way. -/
theorem readHoldDrivesTheLatchedByteAgain : Obligations.ReadHoldDrivesTheLatchedByteAgain := by
  intro s
  obtain ⟨t, hexec, hframe, hmem, hdev⟩ := exec_ioReadHold_devices s
  refine ⟨t, hexec, hframe, hmem, hdev, fun b hb hdrive => ?_, fun hnone => ?_, fun hdrive => ?_⟩
  · rw [exec_ioReadHold_of_latch hb, if_pos hdrive] at hexec
    cases hexec
    exact ⟨rfl, hb⟩
  · rw [exec_ioReadHold_of_no_latch hnone] at hexec
    cases hexec
    exact ⟨rfl, rfl⟩
  · rcases hlatch : s.ioLatch with _ | b
    · rw [exec_ioReadHold_of_no_latch hlatch] at hexec
      cases hexec
      rfl
    · rw [exec_ioReadHold_of_latch hlatch, hdrive] at hexec
      cases hexec
      rfl

open Machine in
/-- Settles O8: the service writes the control byte and the latch alone. -/
theorem consoleControlWriteStoresTheByte : Obligations.ConsoleControlWriteStoresTheByte := fun _ s =>
  ⟨_, rfl, rfl, rfl, rfl, rfl, rfl, rfl, ⟨rfl, rfl⟩, serviceFrame_refl s, fun _ => rfl⟩

open Machine in
/-- Settles O9, bit by bit. -/
theorem consoleStatusReadShowsTheFlags : Obligations.ConsoleStatusReadShowsTheFlags := by
  intro s hne
  obtain ⟨hdrives, hframes⟩ := ioReadDone_frames (conStatusByte s) s
  have hval : s.cfg.cstatRdrf.val ≠ s.cfg.cstatTdre.val := fun h => hne (Fin.ext h)
  refine ⟨_, conStatusByte s, rfl, hdrives, ?_, ?_, fun j hj hr ht => ?_, fun hr ht hfixed htdre => ?_, hframes⟩
  · rw [getLsbD_conStatusByte s s.cfg.cstatRdrf.isLt]
    simp [hval]
  · rw [getLsbD_conStatusByte s s.cfg.cstatTdre.isLt]
    simp [Ne.symm hval]
  · rw [getLsbD_conStatusByte s hj]
    simp [hr, ht]
  · simp only [conStatusByte, hr, ht, hfixed, htdre]
    cases s.con.rxReady <;> rfl

open Machine in
/-- Settles O10: the byte is gated by receive-ready. -/
theorem consoleDataReadTakesOneByte : Obligations.ConsoleDataReadTakesOneByte := by
  refine ⟨fun s hready => ?_, fun s b rest hready hin => ?_⟩
  · have hreceive : conDataReceive s = s := by simp [conDataReceive, hready]
    obtain ⟨hdrives, hframe, hmem, hdev⟩ := ioReadDone_frames s.con.rxData s
    exact ⟨_, exec_inConData_of_eq hreceive, hdrives, hdev, hframe, hmem⟩
  · have hreceive : conDataReceive s = (s.withConIn rest).withCon { s.con with rxData := b, rxReady := false } := by
      simp [conDataReceive, hready, hin]
    exact ⟨_, exec_inConData_of_eq hreceive, ⟨rfl, rfl⟩, rfl, rfl, rfl, rfl, rfl, serviceFrame_refl s, fun _ => rfl⟩

open Machine in
/-- Settles O11: the service appends to the bytes sent, whatever the flags. -/
theorem consoleDataWriteSendsOneByte : Obligations.ConsoleDataWriteSendsOneByte := fun _ s =>
  ⟨_, rfl, rfl, rfl, rfl, rfl, rfl, ⟨rfl, rfl⟩, serviceFrame_refl s, fun _ => rfl⟩

open Machine in
/-- Settles O12, bit by bit; with the reference positions the byte is a function of data-available and error. -/
theorem diskStatusReadShowsTheFlags : Obligations.DiskStatusReadShowsTheFlags := by
  intro s hdistinct
  obtain ⟨hdrives, hframes⟩ := ioReadDone_frames (diskStatusByte s) s
  simp only [List.nodup_cons, List.mem_cons, List.not_mem_nil, or_false, not_or, Fin.ext_iff] at hdistinct
  obtain ⟨⟨hre, hrd⟩, hed, -⟩ := hdistinct
  refine ⟨_, diskStatusByte s, rfl, hdrives, ?_, ?_, ?_, fun j hj hd he hr => ?_, fun hr he hd => ?_, hframes⟩
  · rw [← dataAvailable_iff, getLsbD_diskStatusByte s s.cfg.dstatData.isLt]
    simp [Ne.symm hrd, Ne.symm hed]
  · rw [getLsbD_diskStatusByte s s.cfg.dstatError.isLt]
    simp [Ne.symm hre, hed]
  · rw [getLsbD_diskStatusByte s s.cfg.dstatReady.isLt]
    simp [hre, hrd]
  · rw [getLsbD_diskStatusByte s hj]
    simp [hd, he, hr]
  · simp only [diskStatusByte, ready, hr, he, hd]
    cases dataAvailable s <;> cases s.disk.error <;> decide

open Machine in
/-- Settles O13: the four cases of R121 exclude each other. -/
theorem fnameWriteFillsTheAccumulator : Obligations.FnameWriteFillsTheAccumulator := by
  intro v s
  refine ⟨_, exec_outDiskFname v s, ?_⟩
  obtain ⟨hv, h⟩ | ⟨hv, hc, h⟩ | ⟨hv, hc, hroom, h⟩ | ⟨hv, hc, hfull, h⟩ := fnameWrite_cases v s <;> rw [h]
  · exact ⟨rfl, fun _ => ⟨rfl, rfl⟩, by simp [hv], by simp [hv], by simp [hv], rfl, diskWriteFrame_withDisk s _⟩
  · exact ⟨rfl, by simp [hv], fun _ _ => ⟨rfl, rfl⟩, by simp [hc], by simp [hc], rfl, diskWriteFrame_withDisk s _⟩
  · exact ⟨rfl, by simp [hv], by simp [hc], fun _ _ _ => ⟨rfl, hc⟩, fun _ _ hfull => absurd hroom (Nat.not_lt.2 hfull), rfl,
      diskWriteFrame_withDisk s _⟩
  · exact ⟨rfl, by simp [hv], by simp [hc], fun _ _ hroom => absurd hroom (Nat.not_lt.2 hfull), fun _ _ _ => ⟨rfl, hc⟩, rfl,
      diskWriteFrame_withDisk s s.disk⟩

open Machine in
/-- Settles O16: the three outcomes of R127 exclude each other. -/
theorem dataReadServesAnOpenListing : Obligations.DataReadServesAnOpenListing := by
  intro s k hk
  have hread := diskDataRead_of_dir hk
  obtain ⟨b, l, htail, h⟩ | ⟨e, l, htail, hrest, h⟩ | ⟨htail, hrest, h⟩ := dirDataRead_cases k s <;>
    obtain ⟨t, hnext, hdrives, hdisk, hframes⟩ := exec_inDiskData_of_eq (hread.trans h)
  · refine ⟨t, hnext, hdrives, fun b' l' htail' => ?_, by simp [htail], by simp [htail], hframes⟩
    cases htail.symm.trans htail'
    exact hdisk
  · refine ⟨t, hnext, hdrives, by simp [htail], fun e' l' _ hrest' => ?_, by simp [hrest], hframes⟩
    cases hrest.symm.trans hrest'
    exact ⟨_, hdisk, cursorAt_bytes s.cfg e l, cursorAt_rest s.cfg e l⟩
  · exact ⟨t, hnext, hdrives, by simp [htail], by simp [hrest], fun _ _ => hdisk, hframes⟩

open Machine in
/-- Settles O17: with no cursor the read is the file's, with the three outcomes of R128. -/
theorem dataReadServesTheFile : Obligations.DataReadServesTheFile := by
  intro s hdir
  have hread := diskDataRead_of_no_dir hdir
  refine ⟨fun h hfile hmode hpos hok => ?_, fun h hfile hmode hpos hfault => ?_, fun hnothing => ?_⟩
  · have hdata := (handleHasData_iff s h).2 ⟨hmode, hpos⟩
    obtain ⟨t, hnext, hdrives, hrest⟩ := exec_inDiskData_of_eq (hread.trans (fileDataRead_of_data hfile hdata hok))
    exact ⟨t, _, hnext, fsContents_getElem?_of_lt hpos, hdrives, hrest⟩
  · have hdata := (handleHasData_iff s h).2 ⟨hmode, hpos⟩
    exact exec_inDiskData_of_eq (hread.trans (fileDataRead_of_fault hfile hdata hfault))
  · have hempty : ∀ h, s.disk.file = some h → handleHasData s h = false := fun h hfile => by
      rw [Bool.eq_false_iff, ne_eq, handleHasData_iff]
      rintro ⟨hmode, hpos⟩
      rcases hnothing h hfile with hw | hend
      · simp [hw] at hmode
      · omega
    obtain ⟨t, hnext, hdrives, hdisk, hfiles, hframe, hmem, hcon⟩ :=
      exec_inDiskData_of_eq (d := s.disk) (hread.trans (fileDataRead_of_no_data hempty))
    exact ⟨t, hnext, hdrives, hframe, hmem, hcon, hdisk, hfiles⟩

open Machine in
/-- Settles O18: the three outcomes of R129; the stored byte is a splice of one byte. -/
theorem dataWriteStoresOneFileByte : Obligations.DataWriteStoresOneFileByte := by
  intro v s
  refine ⟨fun h hfile hmode hok => ?_, fun h hfile herr => ?_, fun hnone => ?_⟩
  · obtain ⟨t, hnext, hfiles, hdisk, hframe⟩ :=
      storeWrite_of_ends (exec_outDiskData v s) (diskDataWrite_of_handle hfile hmode hok)
    have hwritten (n : Name) : fsContents t n = fsContents (fsWrite s h.name h.pos [v]) n := fsContents_congr hfiles n
    refine ⟨t, hnext, hdisk, fun i => ?_, ?_, fun n hn => ?_, hframe⟩
    · rw [hwritten, fsContents_fsWrite, if_pos rfl, spliceAt_getD]
      by_cases hi : i = h.pos
      · simp [hi]
      · rw [if_neg hi, if_neg (by simp only [List.length_singleton]; omega)]
    · rw [fsLen, hwritten, fsContents_fsWrite, if_pos rfl, spliceAt_length]
      rfl
    · rw [hfiles, Files.find?_put, if_neg (Ne.symm hn)]
  · exact diskWrite_of_ends (exec_outDiskData v s) (diskDataWrite_of_error hfile herr)
  · exact diskWrite_of_ends (d := s.disk) (exec_outDiskData v s) (diskDataWrite_of_no_file hnone)

end Sys2Proof

/-! The open-class commands (43_disk_commands.md R141 to R144, R148) and the directory listing (R147, R127, R133). -/

namespace Sys2Proof.Machine

/-- The row of an open-class command. -/
def OpenKind.toInstr : OpenKind → Instr
  | .openRead => .openRead
  | .create => .create
  | .openAppend => .openAppend
  | .openReadwrite => .openReadwrite

/-- The code of an open-class command (R74). -/
def OpenKind.code (c : Params) : OpenKind → Byte
  | .openRead => c.cmdOpenRead
  | .create => c.cmdCreate
  | .openAppend => c.cmdOpenAppend
  | .openReadwrite => c.cmdOpenReadwrite

/-- The state the command body of an open-class row starts from: `last_cmd` written (R131). -/
theorem exec_open (kind : OpenKind) (s : State) :
    exec kind.toInstr s = .next (ioWriteDone (openClass kind (setLastCmd s (kind.code s.cfg)))) := by
  cases kind <;> rfl

/-! What an attempt to open answers, by its conditions. -/

theorem openAttempt_of_failure {kind : OpenKind} {n : Name} {s : State}
    (h : n = [] ∨ kind ≠ .create ∧ (s.draws.fsFault = true ∨ fsExists s n = false)) : openAttempt kind n s = (s, none) := by
  obtain ⟨hn, hok, he, -⟩ | ⟨hn, -, hkind, -⟩ | ⟨-, ho⟩ | ⟨hn, -, -, -, hkind, -⟩ := openAttempt_cases kind n s
  · simp [hn, hok, he] at h
  · simp [hn, hkind] at h
  · exact ho
  · simp [hn, hkind] at h

/-- Mode and position of the handle an open of an existing file makes (R142, R144, R148). -/
def OpenKind.opens (s : State) (n : Name) : OpenKind → Option (AccessMode × Nat)
  | .openRead => some (.r, 0)
  | .create => none
  | .openAppend => some (.w, fsLen s n)
  | .openReadwrite => some (.rw, 0)

theorem openAttempt_of_existing {kind : OpenKind} {n : Name} {s : State} (hn : n ≠ []) (he : fsExists s n = true)
    (hok : s.draws.fsFault = false) (hkind : kind ≠ .create) : openAttempt kind n s = (s, kind.opens s n) := by
  obtain ⟨-, -, -, ⟨rfl, ho⟩ | ⟨rfl, ho⟩ | ⟨rfl, ho⟩⟩ | ⟨-, -, hcreate, -⟩ | ⟨hfail, -⟩ | ⟨-, hfault, -⟩ :=
    openAttempt_cases kind n s
  · exact ho
  · exact ho
  · exact ho
  · exact absurd hcreate hkind
  · simp [hn, hok, he] at hfail
  · cases hok.symm.trans hfault

/-- R143 with a name: the old file goes first, and on a failure only if the draw says so. -/
theorem openAttempt_create {n : Name} (hn : n ≠ []) (s : State) :
    openAttempt .create n s =
      if s.draws.fsFault then (if s.draws.removed && fsExists s n then fsRemove s n else s, none)
      else (fsCreateEmpty (if fsExists s n then fsRemove s n else s) n, some (.w, 0)) := by
  have hne : n.isEmpty = false := by simpa using hn
  rw [openAttempt, hne]
  rfl

/-- CREATE that the collaborator does not fail: an empty file under the name, every other as it was (R143). -/
theorem openAttempt_create_of_ok {n : Name} {s : State} (hn : n ≠ []) (hok : s.draws.fsFault = false) :
    ∃ f, openAttempt .create n s = (s.withFiles f, some (.w, 0))
      ∧ f.find? n = some [] ∧ ∀ k, k ≠ n → f.find? k = s.files.find? k := by
  rw [openAttempt_create hn, hok, if_neg Bool.false_ne_true]
  split
  · refine ⟨_, rfl, by rw [Files.find?_put, if_pos rfl], fun k hk => ?_⟩
    rw [Files.find?_put, if_neg (Ne.symm hk)]
    exact Files.find?_remove_other s.files hk
  · exact ⟨_, rfl, by rw [Files.find?_put, if_pos rfl], fun k hk => by rw [Files.find?_put, if_neg (Ne.symm hk)]⟩

/-- A CREATE that the collaborator fails: the old file is gone exactly when the draw says so (R143). -/
theorem openAttempt_create_of_fault {n : Name} {s : State} (hn : n ≠ []) (hwf : s.files.wf = true)
    (hfault : s.draws.fsFault = true) :
    ∃ f, openAttempt .create n s = (s.withFiles f, none)
      ∧ f.find? n = (if s.draws.removed then none else s.files.find? n) ∧ ∀ k, k ≠ n → f.find? k = s.files.find? k := by
  rw [openAttempt_create hn, hfault, if_pos rfl]
  cases hremoved : s.draws.removed with
  | false => exact ⟨s.files, rfl, rfl, fun _ _ => rfl⟩
  | true =>
    cases he : fsExists s n with
    | false => exact ⟨s.files, rfl, by simpa [fsExists] using he, fun _ _ => rfl⟩
    | true =>
      exact ⟨s.files.remove n, rfl, by rw [Files.find?_remove hwf, if_pos rfl]; rfl,
        fun k hk => Files.find?_remove_other s.files hk⟩

/-! What an open-class command leaves, by the outcome of its attempt (R141). -/

theorem openClass_of_no_name {kind : OpenKind} {s : State} (hc : s.disk.fnameCommitted = false) :
    openClass kind s = s.withDisk { s.disk with error := true } := by
  simp [openClass, hc]

theorem openClass_of_success {kind : OpenKind} {s : State} {f : Files} {m : AccessMode} {p : Nat}
    (hc : s.disk.fnameCommitted = true)
    (ho : openAttempt kind s.disk.fname (consumeName s) = ((consumeName s).withFiles f, some (m, p))) :
    openClass kind s = (s.withFiles f).withDisk { s.disk with
      fname := [], fnameCommitted := false, error := false
      file := some { name := s.disk.fname, mode := m, pos := p } } := by
  rw [openClass, if_pos hc, ho]
  rfl

/-- The handle that survives a failed open (R141, D42). -/
def survivingHandle (s : State) : Option Handle := s.disk.file.filter fun h => fsExists s h.name

theorem survivingHandle_of_exists {s : State} (h : ∀ k, s.disk.file = some k → fsExists s k.name = true) :
    survivingHandle s = s.disk.file := by
  rcases hf : s.disk.file with _ | k
  · simp [survivingHandle, hf]
  · simp [survivingHandle, hf, h k hf]

theorem dropOrphan_eq (s : State) : dropOrphan s = s.withDisk { s.disk with file := survivingHandle s } := by
  obtain ⟨hd, hfile⟩ | ⟨hd, h, hsome, hgone⟩ := dropOrphan_cases s <;> rw [hd]
  · rw [survivingHandle_of_exists hfile]
    rfl
  · have hnone : survivingHandle s = none := by simp [survivingHandle, hsome, hgone]
    rw [hnone]
    rfl

theorem openClass_of_failure {kind : OpenKind} {s : State} {f : Files} (hc : s.disk.fnameCommitted = true)
    (ho : openAttempt kind s.disk.fname (consumeName s) = ((consumeName s).withFiles f, none)) :
    openClass kind s = (s.withFiles f).withDisk { s.disk with
      fname := [], fnameCommitted := false, error := true, file := survivingHandle (s.withFiles f) } := by
  have hclass : openClass kind s = raiseError .store (dropOrphan ((consumeName s).withFiles f)) := by
    rw [openClass, if_pos hc, ho]
  rw [hclass, dropOrphan_eq]
  rfl

end Sys2Proof.Machine

namespace Sys2Proof

open Machine in
/-- Settles O22: the four rows are one operation (R141), which stops at the missing name. -/
theorem openWithoutACommittedNameOnlySetsError : Obligations.OpenWithoutACommittedNameOnlySetsError := by
  intro s hc x hx
  have hrow (kind : OpenKind) := diskWrite_of_ends (exec_open kind s)
    (openClass_of_no_name (kind := kind) (s := setLastCmd s (kind.code s.cfg)) hc)
  simp only [List.mem_cons, List.not_mem_nil, or_false] at hx
  obtain rfl | rfl | rfl | rfl := hx
  · exact hrow .openRead
  · exact hrow .create
  · exact hrow .openAppend
  · exact hrow .openReadwrite

open Machine in
/-- Settles O23: the attempt opens, with the mode and position of its row. -/
theorem openOfAnExistingFileSucceeds : Obligations.OpenOfAnExistingFileSucceeds := by
  intro s hc hn he hok x hx
  have hrow (kind : OpenKind) (hkind : kind ≠ .create) {m : AccessMode} {p : Nat}
      (hopens : kind.opens s s.disk.fname = some (m, p)) :
      ∃ t, exec kind.toInstr s = .next t
        ∧ t.disk = { s.disk with
            lastCmd := kind.code s.cfg, fname := [], fnameCommitted := false, error := false
            file := some { name := s.disk.fname, mode := m, pos := p } }
        ∧ t.files = s.files ∧ diskWriteFrame s t := by
    refine diskWrite_of_ends (exec_open kind s)
      (openClass_of_success (s := setLastCmd s (kind.code s.cfg)) (f := s.files) hc ?_)
    exact (openAttempt_of_existing (s := consumeName (setLastCmd s (kind.code s.cfg))) hn he hok hkind).trans
      (congrArg (Prod.mk _) hopens)
  simp only [List.mem_cons, List.not_mem_nil, or_false] at hx
  obtain rfl | rfl | rfl := hx
  · exact hrow .openRead nofun rfl
  · exact hrow .openAppend nofun rfl
  · exact hrow .openReadwrite nofun rfl

open Machine in
/-- Settles O24: the attempt leaves the store as it was, so no handle is dropped. -/
theorem failedOpenKeepsTheHandle : Obligations.FailedOpenKeepsTheHandle := by
  intro s hc hfile x hx hfail
  have hrow (kind : OpenKind)
      (hkind : s.disk.fname = [] ∨ kind ≠ .create ∧ (s.draws.fsFault = true ∨ fsExists s s.disk.fname = false)) :
      ∃ t, exec kind.toInstr s = .next t
        ∧ t.disk = { s.disk with lastCmd := kind.code s.cfg, fname := [], fnameCommitted := false, error := true }
        ∧ t.files = s.files ∧ diskWriteFrame s t := by
    have hclass :=
      openClass_of_failure (s := setLastCmd s (kind.code s.cfg)) (f := s.files) hc (openAttempt_of_failure hkind)
    rw [survivingHandle_of_exists (s := (setLastCmd s (kind.code s.cfg)).withFiles s.files) hfile] at hclass
    exact diskWrite_of_ends (exec_open kind s) hclass
  simp only [List.mem_cons, List.not_mem_nil, or_false] at hx
  obtain rfl | rfl | rfl | rfl := hx
  · exact hrow .openRead (hfail.imp_right fun h => ⟨nofun, h.2⟩)
  · exact hrow .openAppend (hfail.imp_right fun h => ⟨nofun, h.2⟩)
  · exact hrow .openReadwrite (hfail.imp_right fun h => ⟨nofun, h.2⟩)
  · exact hrow .create (hfail.imp_right fun h => absurd rfl h.1)

open Machine in
/-- Settles O25: the attempt empties the file and opens it for writing. -/
theorem createMakesAnEmptyFile : Obligations.CreateMakesAnEmptyFile := by
  intro s hc hn hok
  obtain ⟨f, ho, hnew, hothers⟩ := openAttempt_create_of_ok (s := consumeName (setLastCmd s s.cfg.cmdCreate)) hn hok
  obtain ⟨t, hnext, hfiles, hdisk, hframe⟩ := storeWrite_of_ends (s := s) (exec_open .create s)
    (openClass_of_success (s := setLastCmd s s.cfg.cmdCreate) hc ho)
  exact ⟨t, hnext, hfiles ▸ hnew, hfiles ▸ hothers, hdisk, hframe⟩

open Machine in
/-- Settles O26: the handle that survives is the one whose file is still there. -/
theorem failedCreateMayRemoveTheOldFile : Obligations.FailedCreateMayRemoveTheOldFile := by
  intro s hwf hc hn hfault
  obtain ⟨f, ho, hold, hothers⟩ :=
    openAttempt_create_of_fault (s := consumeName (setLastCmd s s.cfg.cmdCreate)) hn hwf hfault
  have hclass := openClass_of_failure (s := setLastCmd s s.cfg.cmdCreate) hc ho
  obtain ⟨t, hnext, hfiles, hdisk, hframe⟩ := storeWrite_of_ends (s := s) (exec_open .create s) hclass
  have hhandle : t.disk.file = s.disk.file.filter fun h => fsExists t h.name := by
    rw [hdisk]
    exact congrArg (s.disk.file.filter ·) (funext fun h => (fsExists_congr hfiles h.name).symm)
  refine ⟨t, hnext, hfiles ▸ hold, hfiles ▸ hothers, ?_, fun hnone => ?_, fun h hsome => ?_, hframe⟩
  · rw [hdisk]
    rfl
  · rw [hhandle, hnone, Option.filter_none]
  · rw [hhandle, hsome, Option.filter_some]

end Sys2Proof

/-! The directory listing (R147, R127, R133): the bytes an open cursor has still to deliver, and how a read takes them. -/

namespace Sys2Proof.Machine

theorem exec_listDirectory (s : State) :
    exec .listDirectory s = .next (ioWriteDone (listDirectory (setLastCmd s s.cfg.cmdListDirectory))) := rfl

theorem listDirectory_of_ok {s : State} (hok : s.draws.fsFault = false) :
    listDirectory s = s.withDisk { s.disk with dir := cursorOver s.cfg (listable (fsList s)), error := false } := by
  simp [listDirectory, hok]

theorem listDirectory_of_fault {s : State} (hfault : s.draws.fsFault = true) :
    listDirectory s = s.withDisk { s.disk with error := true } := by
  simp [listDirectory, hfault]

/-- What reads of the data port deliver for a list of entries (R83). -/
def listingStream (c : Params) (l : List Name) : List Byte := l.flatMap fun n => n ++ c.lineTerm

/-- What an open cursor has still to deliver: its entry, then the entries after it. -/
def pendingBytes (c : Params) : Option Cursor → List Byte
  | none => []
  | some k => k.curHead :: (k.curTail ++ listingStream c k.rest)

theorem pendingBytes_cursorOver (c : Params) (l : List Name) : pendingBytes c (cursorOver c l) = listingStream c l := by
  cases l with
  | nil => rfl
  | cons e l =>
    rw [cursorOver_cons, pendingBytes, cursorAt_rest, ← List.cons_append, cursorAt_bytes, listingStream, listingStream,
      List.flatMap_cons]

/-- Delivering a byte of a cursor takes it off what is pending. -/
theorem pendingBytes_cursorAdvance (c : Params) (k : Cursor) :
    pendingBytes c (some k) = k.curHead :: pendingBytes c (cursorAdvance c k) := by
  obtain ⟨b0, _ | ⟨b, l⟩, rest⟩ := k
  · exact congrArg (b0 :: ·) (pendingBytes_cursorOver c rest).symm
  · rfl

theorem pendingBytes_eq_nil_iff {c : Params} {d : Option Cursor} : pendingBytes c d = [] ↔ d = none := by
  cases d <;> simp [pendingBytes]

/-- One read of an open listing with the error bit clear: the cursor advances, and nothing else of the session changes. -/
theorem exec_inDiskData_of_dir {s : State} {k : Cursor} (hdir : s.disk.dir = some k) (herr : s.disk.error = false) :
    ∃ t, exec .inDiskData s = .next t ∧ t.dataDrive = some k.curHead ∧ t.cfg = s.cfg
      ∧ t.disk = { s.disk with dir := cursorAdvance s.cfg k } := by
  have hread : diskDataRead s = (k.curHead, s.withDisk { s.disk with dir := cursorAdvance s.cfg k }) := by
    rw [diskDataRead_of_dir hdir, dirDataRead]
    split
    · rename_i h
      rw [h]
      rfl
    · rename_i h
      rw [h, succeed_eq, ← herr]
      rfl
  obtain ⟨t, hnext, ⟨hdrive, -⟩, hdisk, -, ⟨-, -, -, -, -, hcfg, -⟩, -⟩ := exec_inDiskData_of_eq hread
  exact ⟨t, hnext, hdrive, hcfg, hdisk⟩

theorem readDiskData_succ {s t : State} (n : Nat) (hnext : exec .inDiskData s = .next t) :
    readDiskData (n + 1) s = (t.dataDrive :: (readDiskData n t).1, (readDiskData n t).2) := by
  rw [readDiskData, hnext]

/-- Reads deliver what is pending, byte by byte: the cursor is open until the last one and released by it. -/
theorem readDiskData_pending {l : List Byte} {s : State} (hl : pendingBytes s.cfg s.disk.dir = l)
    (herr : s.disk.error = false) :
    (readDiskData l.length s).1 = l.map some
      ∧ (readDiskData l.length s).2.disk = { s.disk with dir := none }
      ∧ ∀ n < l.length, (readDiskData n s).2.disk.dir.isSome = true := by
  induction l generalizing s with
  | nil =>
    refine ⟨rfl, ?_, fun n hn => absurd hn (Nat.not_lt_zero n)⟩
    rw [← pendingBytes_eq_nil_iff.1 hl]
    rfl
  | cons b l ih =>
    rcases hdir : s.disk.dir with _ | k
    · rw [hdir] at hl
      cases hl
    · rw [hdir, pendingBytes_cursorAdvance, List.cons_eq_cons] at hl
      obtain ⟨hhead, htail⟩ := hl
      obtain ⟨t, hnext, hdrive, hcfg, hdisk⟩ := exec_inDiskData_of_dir hdir herr
      have hpending : pendingBytes t.cfg t.disk.dir = l := by rw [hcfg, hdisk]; exact htail
      obtain ⟨hbytes, hlast, hopen⟩ := ih hpending (by rw [hdisk]; exact herr)
      rw [List.length_cons, readDiskData_succ l.length hnext]
      refine ⟨?_, ?_, fun n hn => ?_⟩
      · rw [hbytes, hdrive, hhead, List.map_cons]
      · rw [hlast, hdisk]
      · cases n with
        | zero => exact Option.isSome_iff_exists.2 ⟨k, hdir⟩
        | succ n =>
          rw [readDiskData_succ n hnext]
          exact hopen n (Nat.lt_of_succ_lt_succ hn)

end Sys2Proof.Machine

namespace Sys2Proof

open Machine in
/-- Settles O30: the cursor stands over the collaborator's list without the dot names. -/
theorem listDirectoryOpensACursor : Obligations.ListDirectoryOpensACursor := by
  refine fun s => ⟨fun hok => ?_, fun hfault => ?_⟩
  · obtain ⟨t, hnext, hdisk, hfiles, hframe⟩ :=
      diskWrite_of_ends (exec_listDirectory s) (listDirectory_of_ok (s := setLastCmd s s.cfg.cmdListDirectory) hok)
    have hdir : t.disk.dir = cursorOver s.cfg (listable (fsList s)) := by rw [hdisk]; rfl
    refine ⟨t, listable (fsList s), hnext, fsList_perm s, fun hallowed => ?_, ?_, fun hnil => ?_, fun e l hcons => ?_,
      hfiles, hframe⟩
    · rw [fsList, if_pos hallowed]
      rfl
    · rw [hdisk]
      rfl
    · rw [hdir, hnil, cursorOver_nil]
    · exact ⟨_, by rw [hdir, hcons, cursorOver_cons], cursorAt_bytes s.cfg e l, cursorAt_rest s.cfg e l⟩
  · exact diskWrite_of_ends (exec_listDirectory s) (listDirectory_of_fault (s := setLastCmd s s.cfg.cmdListDirectory) hfault)

open Machine in
/-- Settles O31: what LIST_DIRECTORY leaves pending is the stream, and the error bit is clear. -/
theorem listingDeliversEveryEntry : Obligations.ListingDeliversEveryEntry := by
  intro s t hok hnext
  rw [exec_listDirectory, listDirectory_of_ok (s := setLastCmd s s.cfg.cmdListDirectory) hok] at hnext
  cases hnext
  exact readDiskData_pending (pendingBytes_cursorOver s.cfg (listable (fsList s))) rfl

end Sys2Proof

/-! The block operations (R150, R151): each outcome by its conditions, and what a transfer leaves in memory and the file. -/

namespace Sys2Proof.Machine

theorem exec_blockRead (s : State) : exec .blockRead s = .next (ioWriteDone (blockRead s)) := rfl

theorem exec_blockWrite (s : State) : exec .blockWrite s = .next (ioWriteDone (blockWrite s)) := rfl

theorem blockRead_of_handle {s : State} {h : Handle} (hfile : s.disk.file = some h)
    (hmode : s.cfg.modeStrict = true → h.mode ≠ .w) (hok : s.draws.fsFault = false) :
    blockRead s = blockReadTransfer h s := by
  obtain ⟨hnone, -⟩ | ⟨k, hk, hrefused, -⟩ | ⟨k, hk, -, -, hread⟩ := blockRead_cases s
  · cases hfile.symm.trans hnone
  · cases hfile.symm.trans hk
    rcases hrefused with ⟨hstrict, hw⟩ | hfault
    · exact absurd hw (hmode hstrict)
    · cases hok.symm.trans hfault
  · cases hfile.symm.trans hk
    exact hread

theorem blockWrite_of_handle {s : State} {h : Handle} (hfile : s.disk.file = some h)
    (hmode : s.cfg.modeStrict = true → h.mode ≠ .r) (hok : s.draws.fsFault = false) :
    blockWrite s = blockWriteTransfer h s := by
  obtain ⟨hnone, -⟩ | ⟨k, hk, hrefused, -⟩ | ⟨k, hk, -, -, hwrite⟩ := blockWrite_cases s
  · cases hfile.symm.trans hnone
  · cases hfile.symm.trans hk
    rcases hrefused with ⟨hstrict, hr⟩ | hfault
    · exact absurd hr (hmode hstrict)
    · cases hok.symm.trans hfault
  · cases hfile.symm.trans hk
    exact hwrite

/-- A block operation that fails: no handle, the collaborator, or a mode that refuses it (R166). -/
def blockFails (s : State) (refused : AccessMode) : Prop :=
  s.disk.file = none ∨ s.draws.fsFault = true ∨ (s.cfg.modeStrict = true ∧ ∃ h, s.disk.file = some h ∧ h.mode = refused)

theorem blockRead_of_failure {s : State} (hfail : blockFails s .w) :
    blockRead s = s.withDisk { s.disk with blkResult := s.cfg.blockFail, error := true } := by
  obtain ⟨-, hread⟩ | ⟨-, -, -, hread⟩ | ⟨k, hk, hmode, hok, -⟩ := blockRead_cases s
  · exact hread
  · exact hread
  · obtain hnone | hfault | ⟨hstrict, h, hh, hw⟩ := hfail
    · cases hk.symm.trans hnone
    · cases hok.symm.trans hfault
    · cases hk.symm.trans hh
      exact absurd hw (hmode hstrict)

theorem blockWrite_of_failure {s : State} (hfail : blockFails s .r) :
    blockWrite s = s.withDisk { s.disk with blkResult := s.cfg.blockFail, error := true } := by
  obtain ⟨-, hwrite⟩ | ⟨-, -, -, hwrite⟩ | ⟨k, hk, hmode, hok, -⟩ := blockWrite_cases s
  · exact hwrite
  · exact hwrite
  · obtain hnone | hfault | ⟨hstrict, h, hh, hr⟩ := hfail
    · cases hk.symm.trans hnone
    · cases hok.symm.trans hfault
    · cases hk.symm.trans hh
      exact absurd hr (hmode hstrict)

/-- The quantum a block read puts in memory (R150). -/
def blockReadData (h : Handle) (s : State) : List Byte := zeroPadded s.cfg.quantum (fsRead s h.name h.pos s.cfg.quantum)

theorem blockReadData_length (h : Handle) (s : State) : (blockReadData h s).length = s.cfg.quantum :=
  zeroPadded_length _ _ (by rw [fsRead_length]; exact Nat.min_le_left _ _)

theorem blockReadTransfer_eq (h : Handle) (s : State) :
    blockReadTransfer h s = (memWriteMany s (dmaAddress s.disk).toNat (blockReadData h s)).withDisk { s.disk with
      blkResult := 0x00#8, error := false
      file := some { h with pos := h.pos + readAdvance s.cfg (min s.cfg.quantum (fsLen s h.name - h.pos)) } } := by
  rw [← fsRead_length]
  rfl

theorem memReadMany_getD {s : State} {a n i : Nat} (hi : i < n) : (memReadMany s a n).getD i 0#8 = memRead s (a + i) := by
  simp [memReadMany, List.getD_eq_getElem?_getD, hi]

/-- The file after a block write (R151). -/
theorem blockWriteTransfer_eq (h : Handle) (s : State) :
    blockWriteTransfer h s =
      (fsWrite s h.name h.pos (memReadMany s (dmaAddress s.disk).toNat s.cfg.quantum)).withDisk { s.disk with
        blkResult := 0x00#8, error := false, file := some { h with pos := h.pos + s.cfg.quantum } } := rfl

end Sys2Proof.Machine

namespace Sys2Proof

open Machine in
/-- Settles O34: the quantum is a run of bytes in memory (R53), no longer than the Memory Array. -/
theorem blockReadMovesAQuantum : Obligations.BlockReadMovesAQuantum := by
  intro s h hfile hquantum hmode hok
  have hlen := blockReadData_length h s
  have hnext := exec_blockRead s
  rw [blockRead_of_handle hfile hmode hok, blockReadTransfer_eq] at hnext
  refine ⟨_, hnext, fun i hi => ?_, fun a ha => ?_, ?_, rfl, ⟨rfl, rfl, rfl⟩, ⟨rfl, rfl⟩, serviceFrame_refl s⟩
  · have hhit := memRead_memWriteMany_hit s (a := (dmaAddress s.disk).toNat) (hlen.trans_le hquantum) (hi.trans_eq hlen.symm)
    rw [← List.getD_eq_getElem _ 0x00#8] at hhit
    exact hhit.trans (zeroPadded_fsRead_getD s h.name h.pos s.cfg.quantum i hi)
  · exact memRead_memWriteMany_miss s fun j hj => (ha j (hj.trans_eq hlen)).symm
  · cases hadvance : s.cfg.eofReadAdvance <;> simp [readAdvance, hadvance]

open Machine in
/-- Settles O35: the contents after the write are a splice of the quantum (R12). -/
theorem blockWriteMovesAQuantum : Obligations.BlockWriteMovesAQuantum := by
  intro s h hfile hmode hok
  obtain ⟨t, hnext, hfiles, hdisk, hframe⟩ := storeWrite_of_ends (exec_blockWrite s)
    ((blockWrite_of_handle hfile hmode hok).trans (blockWriteTransfer_eq h s))
  have hcontents : fsContents t h.name =
      spliceAt (fsContents s h.name) h.pos (memReadMany s (dmaAddress s.disk).toNat s.cfg.quantum) := by
    rw [fsContents_congr (s := fsWrite s h.name h.pos _) hfiles, fsContents_fsWrite, if_pos rfl]
  have hlen : fsLen t h.name = max (fsLen s h.name) (h.pos + s.cfg.quantum) := by
    rw [fsLen, hcontents, spliceAt_length, memReadMany_length]
    rfl
  refine ⟨t, hnext, fun i hi => ?_, fun j hj => ?_, hlen, fun n hn => ?_, hdisk, hframe⟩
  · rw [fsContents_getElem?_of_lt (by omega), hcontents, spliceAt_getD, memReadMany_length, if_pos (by omega),
      Nat.add_sub_cancel_left, memReadMany_getD hi]
  · rw [hcontents, spliceAt_getD, memReadMany_length, if_neg (by omega)]
  · rw [hfiles, Files.find?_put, if_neg (Ne.symm hn)]

open Machine in
/-- Settles O36: every failure has one outcome (R164). -/
theorem failedBlockOperationMovesNothing : Obligations.FailedBlockOperationMovesNothing := by
  intro s x hx hfail
  simp only [List.mem_cons, List.not_mem_nil, or_false] at hx
  obtain rfl | rfl := hx
  · exact diskWrite_of_ends (exec_blockRead s) (blockRead_of_failure hfail)
  · exact diskWrite_of_ends (exec_blockWrite s) (blockWrite_of_failure hfail)

open Machine in
/-- Settles O37, from what each operation moves (O34, O35). -/
theorem blockReadReturnsWhatBlockWriteStored : Obligations.BlockReadReturnsWhatBlockWriteStored := by
  intro s t u h k hfile hmode hok hquantum hwrite hfiles hcfg hk hname hpos hkmode hkok
  obtain ⟨t', hwrite', hstored, -⟩ := blockWriteMovesAQuantum s h hfile hmode hok
  cases hwrite.symm.trans hwrite'
  obtain ⟨w, hread, hdelivered, -, hdisk, -⟩ := blockReadMovesAQuantum u k hk (hcfg ▸ hquantum) (fun _ => hkmode) hkok
  refine ⟨w, hread, by rw [hdisk], fun i hi => ?_⟩
  rw [hdelivered i (hcfg ▸ hi), hname, hpos, fsContents_congr hfiles, List.getD_eq_getElem?_getD, hstored i hi,
    Option.getD_some]

end Sys2Proof
